-- ==== Sys2Proof/Word.lean ====
section
/-! DEFINITION. The word types of the K48: what the manual treats as bits, and the two index ranges of its records. -/

namespace Sys2Proof

/-- One byte on the ring (chapter 8): an address, a sequence, a state serial, a code. -/
abbrev Byte := BitVec 8

/-- Evaluator time: a 32-bit count of milliseconds that wraps (00_scope.md 3.3). -/
abbrev Time := BitVec 32

/-- Head time: a 16-bit count of head ticks of 20 µs that wraps (00_scope.md 3.3). -/
abbrev HeadTick := BitVec 16

/-- Detection points are numbered 0 to 47 (00_scope.md 3.1). -/
abbrev PointIndex := Fin 48

/-- Sections are numbered 0 to 31 (00_scope.md 3.1). -/
abbrev SectionIndex := Fin 32

end Sys2Proof
end

