-- ==== Sys2Proof/Syntax.lean ====
section
/-! DEFINITION. The commands of the K48: one constructor for each row of spec/opcode_table.json. -/

namespace Sys2Proof

/-- A command: one whole and indivisible step of the part (95_what_each_step_holds.md). The table gives no
operands, so they are read from the rule of each row. -/
inductive Instr where
  /-- POWER_ON_RESET (R184): release of PWRON with the address-select pins at `pins` (R136). -/
  | powerOnReset (pins : Byte)
  /-- WARM_RESTART (R182): the WARM line is asserted for at least 1 µs. -/
  | warmRestart
  /-- LINE_DOWN (R130): RING IN has been held at space for 1 ms. -/
  | lineDown
  /-- LINE_UP (R130): the first good start bit after the line returned to mark, with the character it begins. -/
  | lineUp (data : Byte) (goodStop : Bool)
  /-- RING_IN_FREE (R129): 6 character times have passed on RING IN with no start bit. -/
  | ringInFree
  /-- COMPLETES_RECEPTION (R129): 2 character times have passed after the last character with no start bit. -/
  | completesReception
  /-- RECORD_TAKE (R7): the idle Discriminator takes the head record of the point event queue. -/
  | recordTake
  /-- RECORD_APPLY (R7): the processing of the record taken ends and the record is applied. -/
  | recordApply
  /-- SKIP_OR_SUSPECT_REQUEST_TAKEN (R24, R40): the Point Supervisor takes or drops the Discriminator's request. -/
  | skipOrSuspectRequestTaken
  /-- SUPERVISION_EXPIRY (R15): the supervision timer of point `point` expires. -/
  | supervisionExpiry (point : Nat)
  /-- START_UP_LIMIT_EXPIRY (R17): the start-up limit timer expires. -/
  | startUpLimitExpiry
  /-- SETTLE_TIMER_EXPIRY (R61): the settle timer of section `index` expires. -/
  | settleTimerExpiry (index : Nat)
  /-- PEER_SILENCE_EXPIRY (R99): the peer silence timer expires. -/
  | peerSilenceExpiry
  /-- COMPARE_TIMER_EXPIRY (R106): the compare timer of section `index` expires. -/
  | compareTimerExpiry (index : Nat)
  /-- CYCLE_STEP (R118): the cycle timer expires. -/
  | cycleStep
  /-- HOLD_TIMER_EXPIRY (R120): the hold timer expires. -/
  | holdTimerExpiry
  /-- TRANSMISSION_END (R138): the last character of the telegram in SENDING ends. -/
  | transmissionEnd
  /-- TRANSMITTER_GAP_END (R138): 2 character times of GAP have passed. -/
  | transmitterGapEnd
  /-- WATCH_RECORD_EXPIRY (R143): the oldest return watch record is older than the round-trip limit. -/
  | watchRecordExpiry
  /-- LOAD_IDLE_TIMEOUT (R174): the idle timer of the open load expires. -/
  | loadIdleTimeout
  /-- ACTIVATION_END (R179, R180): the activation in flight ends. -/
  | activationEnd
  /-- PWRON_ASSERTED (R184): the PWRON line is asserted. -/
  | pwronAsserted
  /-- START_BIT (R128, R129): a start bit on RING IN, with the data byte of its character and whether the stop
  bit was sampled at mark. -/
  | startBit (data : Byte) (goodStop : Bool)
  /-- WARM_RELEASED (R182): the WARM line is released. -/
  | warmReleased
  deriving DecidableEq, Repr

end Sys2Proof
end

