-- ==== Sys2Proof/Decode.lean ====
section
/-! DEFINITION. Reading a command from bits: no row of spec/opcode_table.json has bits, so no word spells one. -/

namespace Sys2Proof

/-- The command a word spells by the table's bits. The table gives its rows no bits (98_reader.md: 24 rows, none
with fixed bits, none with fields), so no word spells a command (log 22). -/
def decodeTableWord (nbits w : Nat) : Option Instr :=
  match nbits, w with
  | _, _ => none

end Sys2Proof
end

