-- ==== Sys2Proof/Config.lean ====
section
/-! DEFINITION. What the manual leaves open: the free values of the model. -/

namespace Sys2Proof

/-- The `n`-th free choice the model draws. Nothing is known of it: a claim that holds, holds for every choice.
It decides which of several expiries due at one moment is raised first ("either may be taken first": R15, R17,
R61, R67, R107, R181; log 4), and whether a pair-addressed request or its overrun at a full forward buffer is
taken first at the latches (R135, R166; log 5). -/
opaque Config.freeChoice : Nat → Nat

end Sys2Proof
end

