-- ==== Sys2Proof/Machine/State.lean ====
section
/-! DEFINITION. The state of the K48, block by block as Table 0-2 owns it, its value after a power-on reset, and
the two ways a step can stop. -/

namespace Sys2Proof.Machine

/-! ## Timers -/

/-- A running timer: when it was last started and the milliseconds it runs (00_scope.md 3.3). A stopped timer is
`none`. -/
structure Timer where
  start : Time
  length : Nat
  deriving DecidableEq, Repr

/-! ## The tables (chapters 1, 3 and 10) -/

/-- The two sides of a detection point; side A is the S1 side (Table 0-7). -/
inductive Side where
  | a
  | b
  deriving DecidableEq, Repr

/-- Restoration permission of a section (Table 3-1). -/
inductive Permission where
  | sweepOnly
  | sweepOrDirect
  deriving DecidableEq, Repr

/-- A points table entry (Table 1-1). Windows are in steps of 10 ms, speeds in 0.1 km/h, the spacing in mm. -/
structure PointEntry where
  headAddress : Byte
  spacing : Nat
  ceiling : Nat
  window : Nat
  recoveryCount : Nat
  suspectLimit : Nat
  deriving DecidableEq, Repr

/-- One entry of a boundary list: a point and the side of it that lies inside the section (R45). -/
structure Boundary where
  point : PointIndex
  inside : Side
  deriving DecidableEq, Repr

/-- A sections table entry (Table 3-1). The settle time is in steps of 100 ms. -/
structure SectionEntry where
  boundaries : List Boundary
  settleTime : Nat
  permission : Permission
  deriving DecidableEq, Repr

/-- The parameter record (Table 10-1), each length in the unit of its row. -/
structure ParamRecord where
  peerAddress : Byte
  pairAddress : Byte
  interlockingAddress : Byte
  maintenanceAddress : Byte
  reportTrigger : Nat
  reportHold : Nat
  cyclePeriod : Nat
  silenceLimit : Nat
  compareWindow : Nat
  roundTripLimit : Nat
  loopMissLimit : Nat
  hopBudget : Byte
  deriving DecidableEq, Repr

/-- The evaluator modes (Table 0-5). -/
inductive Mode where
  | config
  | startUp
  | service
  deriving DecidableEq, Repr

/-- The staged entries of an open load, for indices 0 to expected index − 1, in index order. The constructor is
the table of the load (Table 10-3). -/
inductive Staged where
  | points (entries : List PointEntry)
  | sections (entries : List SectionEntry)
  | parameters (entries : List ParamRecord)
  deriving DecidableEq, Repr

/-- An open load transaction (Table 10-3). Its expected index is the number of staged entries. -/
structure Load where
  staged : Staged
  count : Nat
  idle : Timer
  deriving DecidableEq, Repr

/-! ## Points (chapters 1 and 2) -/

/-- Point statuses (Table 1-3). -/
inductive PointStatus where
  | unused
  | inactive
  | starting
  | healthy
  | faulted
  deriving DecidableEq, Repr

/-- Point fault causes (Table 1-4). -/
inductive FaultCause where
  | none
  | silent
  | gap
  | headRestart
  | headReport
  | skip
  | suspect
  | startTimeout
  | occupiedAtStart
  deriving DecidableEq, Repr

/-- Phases (Table 2-2). -/
inductive Phase where
  | idle
  | up1
  | up2
  | up3
  | dn1
  | dn2
  | dn3
  deriving DecidableEq, Repr

/-- UP is from side A to side B, DOWN the reverse. -/
inductive Direction where
  | up
  | down
  deriving DecidableEq, Repr

/-- The lead: head tick and arrival time of one record, set together and cleared together (R20, R28). -/
structure Lead where
  tick : HeadTick
  arrival : Time
  deriving DecidableEq, Repr

/-- A point record: the Point Supervisor's fields (Table 1-2) and the Discriminator's (Table 2-1). -/
structure PointRecord where
  status : PointStatus
  cause : FaultCause
  run : Nat
  seqRef : Option Byte
  supervision : Option Timer
  phase : Phase
  lead : Option Lead
  lastSpeed : Nat
  lastDirection : Option Direction
  suspect : Nat
  deriving DecidableEq, Repr

/-- The health field of a head telegram (Table 8-10). -/
structure Health where
  s1Fault : Bool
  s2Fault : Bool
  internalFault : Bool
  deriving DecidableEq, Repr

/-- An event record of the point event queue (R5). -/
structure EventRecord where
  point : PointIndex
  seq : Byte
  s1 : Bool
  s2 : Bool
  tick : HeadTick
  health : Health
  arrival : Time
  deriving DecidableEq, Repr

/-- A SKIP or SUSPECT request raised by the Discriminator and not yet taken (R24, R40). -/
structure FaultRequest where
  point : PointIndex
  cause : FaultCause
  deriving DecidableEq, Repr

/-- Point Supervisor and Discriminator: the point records, the point event queue (R6), the record in processing
(R7) and the request not yet taken (R24). -/
structure PointSupervisor where
  records : Vector PointRecord 48
  queue : List EventRecord
  processing : Option EventRecord
  request : Option FaultRequest
  deriving DecidableEq, Repr

/-! ## Sections (chapter 3) -/

/-- Section states (Table 3-5). -/
inductive SectionState where
  | disturbed
  | sweepWait
  | sweepRun
  | occupied
  | settling
  | awaitPeer
  | clear
  deriving DecidableEq, Repr

/-- Disturbance causes (Table 3-4). -/
inductive SectionCause where
  | none
  | start
  | config
  | pointFault
  | underflow
  | overflow
  | peerMismatch
  deriving DecidableEq, Repr

/-- A section record (Table 3-4). -/
structure SectionRecord where
  state : SectionState
  count : Nat
  serial : Byte
  cause : SectionCause
  settle : Option Timer
  deriving DecidableEq, Repr

/-- A side map entry (Table 3-2); `none` is outside. -/
structure Sides where
  sideA : Option SectionIndex
  sideB : Option SectionIndex
  deriving DecidableEq, Repr

/-- Section Counter: the section records and the side map, which has no entry for an unused point (R46). -/
structure SectionCounter where
  records : Vector SectionRecord 32
  sideMap : Vector (Option Sides) 48
  deriving DecidableEq, Repr

/-! ## Peer Comparator (chapter 5) -/

/-- Peer states (Table 5-1). -/
inductive PeerState where
  | absent
  | present
  | mismatched
  deriving DecidableEq, Repr

/-- A peer entry (R101). -/
structure PeerEntry where
  state : SectionState
  count : Nat
  serial : Byte
  arrival : Time
  deriving DecidableEq, Repr

/-- Peer Comparator: peer state, silence timer (R99), one entry or none per section (R101), one compare timer per
section (R104). -/
structure PeerComparator where
  state : PeerState
  silence : Option Timer
  entries : Vector (Option PeerEntry) 32
  compare : Vector (Option Timer) 32
  deriving DecidableEq, Repr

/-! ## Report Scheduler (chapter 6) -/

/-- The hold timer (R120): it stays expired until it is stopped. -/
inductive HoldTimer where
  | stopped
  | running (timer : Timer)
  | expired
  deriving DecidableEq, Repr

/-- Report Scheduler: report queue, oldest first (R114), cycle pointer and cycle timer (R118), hold timer. -/
structure ReportScheduler where
  queue : List SectionIndex
  cyclePointer : SectionIndex
  cycleTimer : Option Timer
  hold : HoldTimer
  deriving DecidableEq, Repr

/-! ## Ring Interface (chapter 7) -/

/-- A telegram (Table 8-1): its Length is the number of payload bytes. -/
structure Telegram where
  kind : Byte
  destination : Byte
  source : Byte
  seq : Byte
  hopBudget : Byte
  payload : List Byte
  crc : BitVec 16
  deriving DecidableEq, Repr

/-- What RING IN has in reception: nothing, after a gap; the bytes kept of a telegram (at most 36), whether one
of its characters had a bad stop bit and whether it has gone on past the 36th byte (R129, R131); or characters
that belong to no telegram, until a gap has passed (R129 after a restart). -/
inductive Reception where
  | ready
  | collecting (bytes : List Byte) (badStop : Bool) (tooLong : Bool)
  | skipping
  deriving DecidableEq, Repr

/-- The condition of the link (R130). -/
inductive LineCondition where
  | lineUp
  | lineDown
  deriving DecidableEq, Repr

/-- The activity of RING IN (R129). -/
inductive LineActivity where
  | receiving
  | free
  deriving DecidableEq, Repr

/-- A return watch record (R142). -/
structure WatchRecord where
  seq : Byte
  sendTime : Time
  deriving DecidableEq, Repr

/-- The loop state (R144). -/
inductive LoopState where
  | intact
  | broken
  deriving DecidableEq, Repr

/-- The class of the telegram in SENDING (R139). `restart` marks the answer a restart pending waits for (R164). -/
inductive TxClass where
  | forwarded
  | answer (restart : Bool)
  | report
  deriving DecidableEq, Repr

/-- Transmitter states (Table 7-3). -/
inductive Transmitter where
  | idle
  | sending (telegram : Telegram) (cls : TxClass)
  | gap
  deriving DecidableEq, Repr

/-- Ring Interface. The own address is what the pins gave; 0 and 255 mean none (R136). -/
structure RingInterface where
  ownAddress : Byte
  condition : LineCondition
  activity : LineActivity
  reception : Reception
  forward : List Telegram
  ownSeq : Byte
  watch : List WatchRecord
  missRun : Nat
  loop : LoopState
  tx : Transmitter
  deriving DecidableEq, Repr

/-! ## Request Executor (chapter 9) -/

/-- The outcomes of Table 8-9. -/
inductive AnswerOutcome where
  | done
  | wrongMode
  | wrongState
  | notReady
  | stale
  | badIndex
  | badField
  | notPermitted
  | loadBusy
  | noLoad
  | outOfOrder
  | countDone
  | short
  | invalid
  | busy
  | unknownRequest
  | badLength
  deriving DecidableEq, Repr

/-- A formed answer (R153): the source of its request, the request code and tag as received, the outcome, the data
bytes, and whether a restart pending is marked against it (R164). -/
structure Answer where
  destination : Byte
  code : Byte
  tag : Byte
  outcome : AnswerOutcome
  data : List Byte
  restart : Bool
  deriving DecidableEq, Repr

/-- A place of the answer queue (R158). -/
inductive AnswerPlace where
  | formed (answer : Answer)
  | reserved
  deriving DecidableEq, Repr

/-- An activation in flight (R177): the version of the request, whom to answer, and when it began. -/
structure Activation where
  version : BitVec 16
  source : Byte
  tag : Byte
  began : Time
  deriving DecidableEq, Repr

/-- Request Executor. -/
structure RequestExecutor where
  answers : List AnswerPlace
  activation : Option Activation
  restartPending : Bool
  deriving DecidableEq, Repr

/-! ## Table Store and Attention Unit (chapters 10 and 9) -/

/-- Table Store: the entry at list position `i` is the entry of index `i`, so an index is configured exactly when
it is below the list's length (R1, R44). -/
structure TableStore where
  points : List PointEntry
  sections : List SectionEntry
  params : Option ParamRecord
  load : Option Load
  activated : Bool
  version : BitVec 16
  mode : Mode
  startLimit : Option Timer
  deriving DecidableEq, Repr

/-- The attention latches (Table 9-2). -/
inductive Latch where
  | pointFault
  | sectionDisturbed
  | peerLost
  | peerConfig
  | loopBroken
  | forwardOverrun
  | eventOverrun
  | badTelegram
  | requestDropped
  | auth
  | hopExpired
  | warmRestart
  | powerOn
  deriving DecidableEq, Repr

/-- Attention Unit: latches and alarm mask, bit by bit as Table 8-7 numbers them (R165, R167). -/
structure AttentionUnit where
  latches : BitVec 13
  mask : BitVec 13
  deriving DecidableEq, Repr

/-! ## The whole part -/

/-- The state of the K48. `pwron` and `warm` say whether the line is asserted. `freeCount` and `pending` are the
model's own: how many free values have been drawn (log 21), and the commands that wait, first in first out. -/
structure State where
  now : Time
  pwron : Bool
  warm : Bool
  ring : RingInterface
  points : PointSupervisor
  sections : SectionCounter
  peer : PeerComparator
  reports : ReportScheduler
  requests : RequestExecutor
  tables : TableStore
  attention : AttentionUnit
  freeCount : Nat
  pending : List Instr
  deriving DecidableEq, Repr

/-- Why the part stops. The spec stops it nowhere; these two are the model's. -/
inductive Fault where
  /-- Raised by SUPERVISION_EXPIRY for an index above 47: the part has no such point (00_scope.md 3.1). Safe: no
  such event exists (log 29). -/
  | noSuchPoint (index : Nat)
  /-- Raised by SETTLE_TIMER_EXPIRY and COMPARE_TIMER_EXPIRY for an index above 31: the part has no such section
  (00_scope.md 3.1). Safe: no such event exists (log 29). -/
  | noSuchSection (index : Nat)
  deriving DecidableEq, Repr

/-- Why a command has no meaning. -/
inductive Refusal where
  /-- Raised by no command of this model: every row of the table has its meaning. It would be safe. -/
  | notModelled (mnemonic : String)
  deriving DecidableEq, Repr

/-! ## Reset values -/

/-- The initial values of a point record with the given status (R2, Table 2-1). -/
def PointRecord.initial (status : PointStatus) : PointRecord where
  status := status
  cause := .none
  run := 0
  seqRef := none
  supervision := none
  phase := .idle
  lead := none
  lastSpeed := 0
  lastDirection := none
  suspect := 0

/-- A section record right after a power-on reset (Table 3-6, first row). -/
def SectionRecord.atPowerOn : SectionRecord where
  state := .disturbed
  count := 0
  serial := 0
  cause := .config
  settle := none

/-- The part right after the release of PWRON (R184, R145, R165, R167, R171). The own address is 12 (DESIGN
CHOICE, log 6), the WARM line is released (DESIGN CHOICE, log 7), RING IN has just had a gap (DESIGN CHOICE,
log 8) and no free value has been drawn (DESIGN CHOICE, log 21). -/
def State.reset : State where
  now := 0
  pwron := false
  warm := false
  ring :=
    { ownAddress := 12
      condition := .lineUp
      activity := .receiving
      reception := .ready
      forward := []
      ownSeq := 1
      watch := []
      missRun := 0
      loop := .intact
      tx := .idle }
  points :=
    { records := Vector.replicate 48 (PointRecord.initial .unused)
      queue := []
      processing := none
      request := none }
  sections :=
    { records := Vector.replicate 32 SectionRecord.atPowerOn
      sideMap := Vector.replicate 48 none }
  peer :=
    { state := .absent
      silence := none
      entries := Vector.replicate 32 none
      compare := Vector.replicate 32 none }
  reports :=
    { queue := []
      cyclePointer := 0
      cycleTimer := none
      hold := .stopped }
  requests :=
    { answers := []
      activation := none
      restartPending := false }
  tables :=
    { points := []
      sections := []
      params := none
      load := none
      activated := false
      version := 0
      mode := .config
      startLimit := none }
  attention :=
    { latches := 0x1000
      mask := 0x1FFF }
  freeCount := 0
  pending := []

end Sys2Proof.Machine
end

