-- ==== Sys2Proof/Machine/Ops.lean ====
section
/-! DEFINITION. Named operations every block shares: timers, reading the tables and the parameter record, the
record accessors, and the guard of a command. -/

namespace Sys2Proof.Machine

/-! ## Tables of a fixed size -/

/-- The vector whose entry `i` is `f i`. -/
def tabulate {n : Nat} {α : Type} (f : Fin n → α) : Vector α n :=
  ⟨⟨(List.finRange n).map f⟩, by simp⟩

/-! ## Timers (00_scope.md 3.3) -/

/-- Milliseconds since the timer was last started, modulo 2^32. -/
def Timer.elapsed (t : Timer) (now : Time) : Nat := (now - t.start).toNat

/-- A timer expires when its full length has passed since it was last started. -/
def Timer.due (t : Timer) (now : Time) : Bool := decide (t.length ≤ t.elapsed now)

/-- A timer that may be stopped is due when it runs and its full length has passed. -/
def timerDue (t : Option Timer) (now : Time) : Bool :=
  match t with
  | none => false
  | some t => t.due now

/-- A timer started now for `ms` milliseconds. -/
def State.startTimer (s : State) (ms : Nat) : Timer where
  start := s.now
  length := ms

/-- The remaining time of a settle timer in 100 ms steps, rounded up, 1..255 while it runs and 0 while it is
stopped (R59). At the moment of expiry itself the answer is still 1 (DEDUCED, log 25). -/
def settleSteps (t : Option Timer) (now : Time) : Nat :=
  match t with
  | none => 0
  | some t => max 1 ((t.length - t.elapsed now + 99) / 100)

/-! ## Sequence numbers -/

/-- The successor of a sequence value (Table 1-5, R141): 1 after 255, else the value plus 1. -/
def seqSuccessor (x : Byte) : Byte := if x = 255 then 1 else x + 1

/-! ## The held tables -/

/-- The points table entry of an index, if it is configured (R1). -/
def State.pointEntry (s : State) (p : PointIndex) : Option PointEntry := s.tables.points[p.val]?

/-- A point index is configured when the held points table has an entry for it (R1). -/
def State.pointConfigured (s : State) (p : PointIndex) : Bool := decide (p.val < s.tables.points.length)

/-- The sections table entry of an index, if it is configured (R44). -/
def State.sectionEntry (s : State) (i : SectionIndex) : Option SectionEntry := s.tables.sections[i.val]?

/-- A section index is configured when the held sections table has an entry for it (R44). -/
def State.sectionConfigured (s : State) (i : SectionIndex) : Bool := decide (i.val < s.tables.sections.length)

/-- The configured point indices, ascending. -/
def State.configuredPoints (s : State) : List PointIndex := (List.finRange 48).filter s.pointConfigured

/-- The configured section indices, ascending. -/
def State.configuredSections (s : State) : List SectionIndex := (List.finRange 32).filter s.sectionConfigured

/-- The boundary list of a section; an unused index has none. -/
def State.boundaries (s : State) (i : SectionIndex) : List Boundary :=
  match s.sectionEntry i with
  | none => []
  | some e => e.boundaries

/-- The head address map (R1): the configured point with this head address. -/
def State.headPoint (s : State) (address : Byte) : Option PointIndex :=
  s.configuredPoints.find? fun p => s.pointEntry p |>.any fun e => e.headAddress == address

/-! ## The parameter record and the values taken while none is held (Table 10-1) -/

/-- The peer address, 0 while no record is held. -/
def State.peerAddress (s : State) : Byte :=
  match s.tables.params with
  | none => 0
  | some r => r.peerAddress

/-- The pair address, 0 while no record is held. -/
def State.pairAddress (s : State) : Byte :=
  match s.tables.params with
  | none => 0
  | some r => r.pairAddress

/-- The round-trip limit in ms, 255 while no record is held (R143). -/
def State.roundTripLimit (s : State) : Nat :=
  match s.tables.params with
  | none => 255
  | some r => r.roundTripLimit

/-- The loop miss limit, 15 while no record is held (R144). -/
def State.loopMissLimit (s : State) : Nat :=
  match s.tables.params with
  | none => 15
  | some r => r.loopMissLimit

/-- The hop budget of own telegrams, 255 while no record is held (R133). -/
def State.hopBudget (s : State) : Byte :=
  match s.tables.params with
  | none => 255
  | some r => r.hopBudget

/-- The evaluator has an own address when the pins gave 1..254 (R136). -/
def State.hasOwnAddress (s : State) : Bool := s.ring.ownAddress != 0 && s.ring.ownAddress != 255

/-! ## Records -/

/-- The record of a point. -/
def State.point (s : State) (p : PointIndex) : PointRecord := s.points.records.get p

/-- Replace the record of a point; no other record changes (R19). -/
def State.setPoint (s : State) (p : PointIndex) (r : PointRecord) : State :=
  { s with points := { s.points with records := s.points.records.set p.val r p.isLt } }

/-- The record of a section. -/
def State.sect (s : State) (i : SectionIndex) : SectionRecord := s.sections.records.get i

/-- Replace the record of a section; no other record changes (R72). -/
def State.setSect (s : State) (i : SectionIndex) (r : SectionRecord) : State :=
  { s with sections := { s.sections with records := s.sections.records.set i.val r i.isLt } }

/-- The peer entry of a section, if one is held (R101). -/
def State.peerEntry (s : State) (i : SectionIndex) : Option PeerEntry := s.peer.entries.get i

/-- Replace the peer entry of a section (R102). -/
def State.setPeerEntry (s : State) (i : SectionIndex) (e : Option PeerEntry) : State :=
  { s with peer := { s.peer with entries := s.peer.entries.set i.val e i.isLt } }

/-- The compare timer of a section (R104). -/
def State.compareTimer (s : State) (i : SectionIndex) : Option Timer := s.peer.compare.get i

/-- Replace the compare timer of a section (R104). -/
def State.setCompare (s : State) (i : SectionIndex) (t : Option Timer) : State :=
  { s with peer := { s.peer with compare := s.peer.compare.set i.val t i.isLt } }

/-- The sections on the two sides of a point; outside on both while it has no side map entry (R46). -/
def State.sides (s : State) (p : PointIndex) : Sides :=
  match s.sections.sideMap.get p with
  | none => { sideA := none, sideB := none }
  | some m => m

/-! ## Commands -/

/-- What a command answers: while PWRON is asserted the part takes no event (R184), and the state stays
(log 18). -/
def powered (s t : State) : Host.Outcome State Fault Refusal :=
  if s.pwron then .next s else .next t

/-- The effect of an event whose occasion `c` must exist: without it the event has not happened (log 2). -/
def onlyIf (c : Bool) (s t : State) : State := if c then t else s

end Sys2Proof.Machine
end

