-- ==== Sys2Proof/Machine/Flags.lean ====
section
/-! DEFINITION. The Attention Unit: the attention latches, the alarm mask and ALARM (9.7, 9.8). -/

namespace Sys2Proof.Machine

/-- The bit of a latch (Table 8-7). -/
def Latch.bit (l : Latch) : Nat :=
  match l with
  | .pointFault => 0
  | .sectionDisturbed => 1
  | .peerLost => 2
  | .peerConfig => 3
  | .loopBroken => 4
  | .forwardOverrun => 5
  | .eventOverrun => 6
  | .badTelegram => 7
  | .requestDropped => 8
  | .auth => 9
  | .hopExpired => 10
  | .warmRestart => 11
  | .powerOn => 12

/-- The mask that names one latch. -/
def Latch.mask (l : Latch) : BitVec 13 := 1#13 <<< l.bit

/-- Is the latch set? -/
def State.latch (s : State) (l : Latch) : Bool := s.attention.latches.getLsbD l.bit

/-- A block asks for a latch to be set; a latch already set stays set (R165). -/
def State.raise (s : State) (l : Latch) : State :=
  { s with attention := { s.attention with latches := s.attention.latches ||| l.mask } }

/-- ACK_ATTENTION's clearing: a 1 in the mask clears its latch, bits 13 to 15 are ignored (R166). -/
def State.acknowledge (s : State) (mask : BitVec 16) : State :=
  { s with attention := { s.attention with latches := s.attention.latches &&& ~~~(mask.truncate 13) } }

/-- SET_ALARM_MASK: bits 0 to 12 become the alarm mask, bits 13 to 15 are ignored (R167). -/
def State.setAlarmMask (s : State) (mask : BitVec 16) : State :=
  { s with attention := { s.attention with mask := mask.truncate 13 } }

/-- The Attention Unit after a warm restart or the release of PWRON: one latch set, every enable on (R165, R167). -/
def attentionAfterReset (l : Latch) : AttentionUnit where
  latches := l.mask
  mask := 0x1FFF

/-- ALARM is asserted exactly when at least one latch is set whose mask bit is enabled (R168). -/
def State.alarm (s : State) : Bool := s.attention.latches &&& s.attention.mask != 0

end Sys2Proof.Machine
end

