-- ==== Sys2Proof/Machine/Operands.lean ====
section
/-! DEFINITION. Telegram formats (chapter 8): codes, byte order, the frame and its CRC, the receive checks, and the
payloads the evaluator reads. -/

namespace Sys2Proof.Machine

/-! ## Bytes -/

/-- A number 0..255 as one byte. -/
def byte (n : Nat) : Byte := BitVec.ofNat 8 n

/-- A number 0..65535 as two bytes, most significant first (00_scope.md 3.6). -/
def twoBytes (n : Nat) : List Byte := [byte (n / 256), byte n]

/-- Two bytes read as one number, most significant first. -/
def ofTwoBytes (hi lo : Byte) : Nat := hi.toNat * 256 + lo.toNat

/-- A truth value as a byte, 0 or 1. -/
def flagByte (b : Bool) : Byte := if b then 1 else 0

/-! ## Codes (8.2) -/

/-- Table 8-3. -/
def SectionState.code (x : SectionState) : Byte :=
  match x with
  | .disturbed => 1
  | .sweepWait => 2
  | .sweepRun => 3
  | .occupied => 4
  | .settling => 5
  | .awaitPeer => 6
  | .clear => 7

/-- Table 8-3, read back; a byte that is not a code is out of range (R148). -/
def SectionState.ofCode (b : Byte) : Option SectionState :=
  match b.toNat with
  | 1 => some .disturbed
  | 2 => some .sweepWait
  | 3 => some .sweepRun
  | 4 => some .occupied
  | 5 => some .settling
  | 6 => some .awaitPeer
  | 7 => some .clear
  | _ => none

/-- Table 8-4. -/
def SectionCause.code (x : SectionCause) : Byte :=
  match x with
  | .none => 0
  | .start => 1
  | .config => 2
  | .pointFault => 3
  | .underflow => 4
  | .overflow => 5
  | .peerMismatch => 6

/-- Table 8-4, read back; a byte that is not a code is out of range (R148). -/
def SectionCause.ofCode (b : Byte) : Option SectionCause :=
  match b.toNat with
  | 0 => some .none
  | 1 => some .start
  | 2 => some .config
  | 3 => some .pointFault
  | 4 => some .underflow
  | 5 => some .overflow
  | 6 => some .peerMismatch
  | _ => Option.none

/-- Table 8-5, point status. -/
def PointStatus.code (x : PointStatus) : Byte :=
  match x with
  | .unused => 0
  | .inactive => 1
  | .starting => 2
  | .healthy => 3
  | .faulted => 4

/-- Table 8-5, point fault cause. -/
def FaultCause.code (x : FaultCause) : Byte :=
  match x with
  | .none => 0
  | .silent => 1
  | .gap => 2
  | .headRestart => 3
  | .headReport => 4
  | .skip => 5
  | .suspect => 6
  | .startTimeout => 7
  | .occupiedAtStart => 8

/-- Table 8-5, phase. -/
def Phase.code (x : Phase) : Byte :=
  match x with
  | .idle => 0
  | .up1 => 1
  | .up2 => 2
  | .up3 => 3
  | .dn1 => 4
  | .dn2 => 5
  | .dn3 => 6

/-- Table 8-5, last direction. -/
def directionCode (d : Option Direction) : Byte :=
  match d with
  | none => 0
  | some .up => 1
  | some .down => 2

/-- Table 8-6, evaluator mode. -/
def Mode.code (x : Mode) : Byte :=
  match x with
  | .config => 1
  | .startUp => 2
  | .service => 3

/-- Table 8-6, peer state. -/
def PeerState.code (x : PeerState) : Byte :=
  match x with
  | .absent => 0
  | .present => 1
  | .mismatched => 2

/-- Table 8-6, loop state. -/
def LoopState.code (x : LoopState) : Byte :=
  match x with
  | .intact => 0
  | .broken => 1

/-- Table 8-6, inside side, read back. -/
def Side.ofCode (b : Byte) : Option Side :=
  match b.toNat with
  | 1 => some .a
  | 2 => some .b
  | _ => none

/-- Table 8-6, the table of a load: 1 POINTS, 2 SECTIONS, 3 PARAMETERS. -/
def Staged.code (x : Staged) : Byte :=
  match x with
  | .points _ => 1
  | .sections _ => 2
  | .parameters _ => 3

/-- Table 8-9. -/
def AnswerOutcome.code (x : AnswerOutcome) : Byte :=
  match x with
  | .done => 0x00
  | .wrongMode => 0x01
  | .wrongState => 0x02
  | .notReady => 0x03
  | .stale => 0x04
  | .badIndex => 0x05
  | .badField => 0x06
  | .notPermitted => 0x07
  | .loadBusy => 0x08
  | .noLoad => 0x09
  | .outOfOrder => 0x0A
  | .countDone => 0x0B
  | .short => 0x0C
  | .invalid => 0x0D
  | .busy => 0x0E
  | .unknownRequest => 0x0F
  | .badLength => 0x10

/-- Kind codes (Table 8-2). -/
def kindHeadState : Byte := 0x21
/-- Kind codes (Table 8-2). -/
def kindSectionReport : Byte := 0x42
/-- Kind codes (Table 8-2). -/
def kindMgmtRequest : Byte := 0x63
/-- Kind codes (Table 8-2). -/
def kindMgmtAnswer : Byte := 0x64

/-! ## The CRC (R132) -/

/-- One bit step: shift left, and subtract the generator x^16 + x^12 + x^5 + 1 when a 1 leaves at the top. -/
def crcBit (c : BitVec 16) : BitVec 16 :=
  if c.msb then (c <<< 1) ^^^ 0x1021 else c <<< 1

/-- One byte, most significant bit first. -/
def crcByte (c : BitVec 16) (b : Byte) : BitVec 16 :=
  let c := c ^^^ ((b.zeroExtend 16) <<< 8)
  crcBit (crcBit (crcBit (crcBit (crcBit (crcBit (crcBit (crcBit c)))))))

/-- The 16-bit check over a list of bytes: initial value FFFFh, no final inversion. -/
def crcOf (bytes : List Byte) : BitVec 16 := bytes.foldl crcByte 0xFFFF

/-! ## The frame (8.1) -/

/-- The Length byte of a telegram. -/
def Telegram.lengthByte (t : Telegram) : Byte := byte t.payload.length

/-- The CRC a telegram should carry: over Kind, Destination, Source, Sequence, Length and payload, the hop budget
left out (R132). -/
def Telegram.properCrc (t : Telegram) : BitVec 16 :=
  crcOf ([t.kind, t.destination, t.source, t.seq, t.lengthByte] ++ t.payload)

/-- The bytes of a telegram as they stand on the line (Table 8-1). -/
def Telegram.toBytes (t : Telegram) : List Byte :=
  [t.kind, t.destination, t.source, t.seq, t.hopBudget, t.lengthByte] ++ t.payload ++ twoBytes t.crc.toNat

/-- Read a frame: header, as many payload bytes as Length says, two CRC bytes, nothing after (Table 8-1). None when
the bytes are fewer than 8, the Length is above 28 or the byte count is not 8 plus the Length (R131). -/
def Telegram.ofBytes (bytes : List Byte) : Option Telegram :=
  match bytes with
  | k :: d :: c :: q :: h :: l :: rest =>
    if l.toNat ≤ 28 ∧ rest.length = l.toNat + 2 then
      match rest.drop l.toNat with
      | [hi, lo] =>
        some
          { kind := k
            destination := d
            source := c
            seq := q
            hopBudget := h
            payload := rest.take l.toNat
            crc := BitVec.ofNat 16 (ofTwoBytes hi lo) }
      | _ => none
    else none
  | _ => none

/-- The receive checks (R131): the telegram in the bytes received when it is good, none when it is bad. -/
def receiveChecks (bytes : List Byte) (badStop tooLong : Bool) : Option Telegram :=
  if badStop || tooLong then none
  else
    match Telegram.ofBytes bytes with
    | none => none
    | some t => if t.crc = t.properCrc then some t else none

/-- The hop budget taken (R133): none when the telegram has expired, else the telegram with its decremented budget. -/
def takeHop (t : Telegram) : Option Telegram :=
  if t.hopBudget.toNat ≤ 1 then none else some { t with hopBudget := t.hopBudget - 1 }

/-! ## HEAD_STATE (8.3) -/

/-- What a well-formed HEAD_STATE carries in its payload. -/
structure HeadState where
  s1 : Bool
  s2 : Bool
  tick : HeadTick
  health : Health
  deriving DecidableEq, Repr

/-- A HEAD_STATE payload, none when it is malformed (R149): Length 4, bits 2..7 of the levels byte and bits 3..7 of
the health byte zero. -/
def headStateOf (payload : List Byte) : Option HeadState :=
  match payload with
  | [levels, hi, lo, health] =>
    if levels.toNat < 4 ∧ health.toNat < 8 then
      some
        { s1 := levels.getLsbD 0
          s2 := levels.getLsbD 1
          tick := BitVec.ofNat 16 (ofTwoBytes hi lo)
          health :=
            { s1Fault := health.getLsbD 0
              s2Fault := health.getLsbD 1
              internalFault := health.getLsbD 2 } }
    else none
  | _ => none

/-- The health field is nonzero when at least one indication is set (1.9). -/
def Health.nonzero (h : Health) : Bool := h.s1Fault || h.s2Fault || h.internalFault

/-! ## SECTION_REPORT (8.4) -/

/-- One entry of a SECTION_REPORT (R122, Table 8-11). -/
structure ReportEntry where
  index : SectionIndex
  state : SectionState
  count : Nat
  serial : Byte
  cause : SectionCause
  deriving DecidableEq, Repr

/-- A SECTION_REPORT payload. -/
structure Report where
  version : BitVec 16
  entries : List ReportEntry
  deriving DecidableEq, Repr

/-- The six bytes of a report entry (Table 8-11). -/
def ReportEntry.toBytes (e : ReportEntry) : List Byte :=
  [byte e.index.val, e.state.code] ++ twoBytes e.count ++ [e.serial, e.cause.code]

/-- The payload of a report (Table 8-11). -/
def Report.toBytes (r : Report) : List Byte :=
  twoBytes r.version.toNat ++ [byte r.entries.length] ++ r.entries.flatMap ReportEntry.toBytes

/-- A section index byte 0..31. -/
def sectionOfByte (b : Byte) : Option SectionIndex :=
  if h : b.toNat < 32 then some ⟨b.toNat, h⟩ else none

/-- A point index byte 0..47. -/
def pointOfByte (b : Byte) : Option PointIndex :=
  if h : b.toNat < 48 then some ⟨b.toNat, h⟩ else none

/-- One report entry read back; none when a field is out of range (R150). -/
def reportEntryOf (i st hi lo sr ca : Byte) : Option ReportEntry :=
  match sectionOfByte i, SectionState.ofCode st, SectionCause.ofCode ca with
  | some i, some st, some ca =>
    if ofTwoBytes hi lo ≤ 1023 then
      some { index := i, state := st, count := ofTwoBytes hi lo, serial := sr, cause := ca }
    else none
  | _, _, _ => none

/-- Exactly `k` report entries; none when the bytes are of another number or an entry is out of range. -/
def reportEntriesOf (k : Nat) (bytes : List Byte) : Option (List ReportEntry) :=
  match k, bytes with
  | 0, [] => some []
  | k + 1, i :: st :: hi :: lo :: sr :: ca :: rest =>
    match reportEntryOf i st hi lo sr ca, reportEntriesOf k rest with
    | some e, some es => some (e :: es)
    | _, _ => none
  | _, _ => none

/-- A SECTION_REPORT payload read; none when it is malformed: k is 1..4, the Length is 3 + 6k, and every field is in
range (R95, R150). -/
def reportOf (payload : List Byte) : Option Report :=
  match payload with
  | hi :: lo :: k :: rest =>
    if 1 ≤ k.toNat ∧ k.toNat ≤ 4 then
      match reportEntriesOf k.toNat rest with
      | none => none
      | some es => some { version := BitVec.ofNat 16 (ofTwoBytes hi lo), entries := es }
    else none
  | _ => none

/-! ## MGMT_REQUEST (8.5) -/

/-- The requests of Table 8-8. -/
inductive RequestCode where
  | readStatus
  | readSection
  | readPoint
  | ackAttention
  | restoreSweep
  | setAlarmMask
  | restoreDirect
  | clearSuspect
  | enterConfig
  | loadOpen
  | loadEntry
  | loadClose
  | activate
  | restart
  deriving DecidableEq, Repr

/-- Table 8-8, read back. -/
def RequestCode.ofCode (b : Byte) : Option RequestCode :=
  match b.toNat with
  | 0x01 => some .readStatus
  | 0x02 => some .readSection
  | 0x03 => some .readPoint
  | 0x04 => some .ackAttention
  | 0x05 => some .restoreSweep
  | 0x11 => some .setAlarmMask
  | 0x12 => some .restoreDirect
  | 0x13 => some .clearSuspect
  | 0x20 => some .enterConfig
  | 0x21 => some .loadOpen
  | 0x22 => some .loadEntry
  | 0x23 => some .loadClose
  | 0x24 => some .activate
  | 0x30 => some .restart
  | _ => none

/-- Operator requests (9.2); every other request is a maintenance request. -/
def RequestCode.isOperator (c : RequestCode) : Bool :=
  match c with
  | .readStatus => true
  | .readSection => true
  | .readPoint => true
  | .ackAttention => true
  | .restoreSweep => true
  | .setAlarmMask => false
  | .restoreDirect => false
  | .clearSuspect => false
  | .enterConfig => false
  | .loadOpen => false
  | .loadEntry => false
  | .loadClose => false
  | .activate => false
  | .restart => false

/-- The number of parameter bytes of a request: its Length of Table 8-13 less the code and the tag. A LOAD_ENTRY's
follows from the table code it carries (Table 8-14); without a table code of 1..3 it has none (R151). -/
def RequestCode.paramBytes (c : RequestCode) (params : List Byte) : Option Nat :=
  match c with
  | .readStatus => some 0
  | .readSection => some 1
  | .readPoint => some 1
  | .ackAttention => some 2
  | .restoreSweep => some 2
  | .setAlarmMask => some 2
  | .restoreDirect => some 2
  | .clearSuspect => some 1
  | .enterConfig => some 0
  | .loadOpen => some 2
  | .loadEntry =>
    match params with
    | [] => none
    | t :: _ =>
      match t.toNat with
      | 1 => some 10
      | 2 => some 17
      | 3 => some 14
      | _ => none
  | .loadClose => some 0
  | .activate => some 2
  | .restart => some 0

/-- Parameter byte `k` of a request that has passed the form check. -/
def paramByte (params : List Byte) (k : Nat) : Byte := params.getD k 0

/-- The two-byte parameter that begins at byte `k`. -/
def paramWord (params : List Byte) (k : Nat) : Nat := ofTwoBytes (paramByte params k) (paramByte params (k + 1))

/-! ## LOAD_ENTRY (8.6) -/

/-- The number of the first field that fails its range, in the numbering of R152, from a list of (number, in range). -/
def firstBadField (checks : List (Nat × Bool)) : Option Nat :=
  (checks.find? fun c => !c.2).map Prod.fst

/-- `lo ≤ n ≤ hi`. -/
def within (lo n hi : Nat) : Bool := decide (lo ≤ n ∧ n ≤ hi)

/-- Fields 3 to 8 of a POINTS entry against the ranges of Table 1-1. -/
def pointFieldChecks (ps : List Byte) : List (Nat × Bool) :=
  [ (3, within 1 (paramByte ps 2).toNat 254),
    (4, within 40 (paramWord ps 3) 400),
    (5, within 50 (paramWord ps 5) 3000),
    (6, within 1 (paramByte ps 7).toNat 255),
    (7, within 2 (paramByte ps 8).toNat 63),
    (8, within 1 (paramByte ps 9).toNat 15) ]

/-- A POINTS entry as carried (Table 8-14). -/
def pointEntryOf (ps : List Byte) : PointEntry where
  headAddress := paramByte ps 2
  spacing := paramWord ps 3
  ceiling := paramWord ps 5
  window := (paramByte ps 7).toNat
  recoveryCount := (paramByte ps 8).toNat
  suspectLimit := (paramByte ps 9).toNat

/-- Boundary slot `j` (0..5) of a SECTIONS entry: none when its point is above 47 or its side is no code. -/
def boundarySlot (ps : List Byte) (j : Nat) : Option Boundary :=
  match pointOfByte (paramByte ps (3 + 2 * j)), Side.ofCode (paramByte ps (4 + 2 * j)) with
  | some p, some x => some { point := p, inside := x }
  | _, _ => none

/-- Fields 3 to 11 of a SECTIONS entry: the boundary count, each slot within the count as one field, the settle
time and the permission (R152, Table 3-1). -/
def sectionFieldChecks (ps : List Byte) : List (Nat × Bool) :=
  let k := (paramByte ps 2).toNat
  [(3, within 1 k 6)]
    ++ (List.range 6).map (fun j => (4 + j, decide (k ≤ j) || (boundarySlot ps j).isSome))
    ++ [ (10, within 1 (paramByte ps 15).toNat 255),
         (11, within 1 (paramByte ps 16).toNat 2) ]

/-- A SECTIONS entry whose fields are all in range, as carried: the first `count` slots are the boundary list, the
others are ignored (R152). Permission codes are 1 SWEEP_ONLY and 2 SWEEP_OR_DIRECT (Table 8-6). -/
def sectionEntryOf (ps : List Byte) : SectionEntry where
  boundaries := (List.range (paramByte ps 2).toNat).filterMap (boundarySlot ps)
  settleTime := (paramByte ps 15).toNat
  permission := if paramByte ps 16 = 2 then .sweepOrDirect else .sweepOnly

/-- Fields 3 to 14 of a PARAMETERS entry against the ranges of Table 10-1. -/
def paramFieldChecks (ps : List Byte) : List (Nat × Bool) :=
  [ (3, within 0 (paramByte ps 2).toNat 254),
    (4, within 0 (paramByte ps 3).toNat 254),
    (5, within 1 (paramByte ps 4).toNat 254),
    (6, within 1 (paramByte ps 5).toNat 254),
    (7, within 1 (paramByte ps 6).toNat 4),
    (8, within 1 (paramByte ps 7).toNat 15),
    (9, within 1 (paramByte ps 8).toNat 255),
    (10, within 1 (paramByte ps 9).toNat 255),
    (11, within 1 (paramByte ps 10).toNat 255),
    (12, within 1 (paramByte ps 11).toNat 255),
    (13, within 1 (paramByte ps 12).toNat 15),
    (14, within 8 (paramByte ps 13).toNat 255) ]

/-- A PARAMETERS entry as carried (Table 8-14). -/
def paramRecordOf (ps : List Byte) : ParamRecord where
  peerAddress := paramByte ps 2
  pairAddress := paramByte ps 3
  interlockingAddress := paramByte ps 4
  maintenanceAddress := paramByte ps 5
  reportTrigger := (paramByte ps 6).toNat
  reportHold := (paramByte ps 7).toNat
  cyclePeriod := (paramByte ps 8).toNat
  silenceLimit := (paramByte ps 9).toNat
  compareWindow := (paramByte ps 10).toNat
  roundTripLimit := (paramByte ps 11).toNat
  loopMissLimit := (paramByte ps 12).toNat
  hopBudget := paramByte ps 13

/-! ## MGMT_ANSWER (8.7) -/

/-- The payload of an answer (Table 8-15). -/
def Answer.toBytes (a : Answer) : List Byte := [a.code, a.tag, a.outcome.code] ++ a.data

end Sys2Proof.Machine
end

