-- ==== Sys2Proof/Machine/Reports.lean ====
section
/-! DEFINITION. The Report Scheduler (chapter 6), the RING OUT arbiter (R139..R141), and the commands CYCLE_STEP and
HOLD_TIMER_EXPIRY. -/

namespace Sys2Proof.Machine

/-! ## The report queue -/

/-- Reporting is active while a parameter record and at least one configured section are held (R117). -/
def State.reportingActive (s : State) : Bool := s.tables.params.isSome && !s.tables.sections.isEmpty

/-- The hold timer started at the full report hold (R120); without a parameter record reporting is inactive and
nothing starts. -/
def State.startHold (s : State) : State :=
  match s.tables.params with
  | none => s
  | some r => { s with reports := { s.reports with hold := .running (s.startTimer r.reportHold) } }

/-- A section that joins the queue at the tail, and the hold timer's start when the queue was empty and reporting is
active (R114, R120). -/
def State.joinQueue (s : State) (i : SectionIndex) : State :=
  let t := { s with reports := { s.reports with queue := s.reports.queue ++ [i] } }
  if s.reports.queue.isEmpty && s.reportingActive then t.startHold else t

/-- A request to queue a section: an unused index is ignored, a queued one keeps its place, any other joins (R114). -/
def queueReport (i : SectionIndex) (s : State) : State :=
  if s.sectionConfigured i && !s.reports.queue.contains i then s.joinQueue i else s

/-- Every configured section queued in one action, ascending; those already queued keep their places (R116). -/
def queueAllSections (s : State) : State := s.configuredSections.foldl (fun t i => queueReport i t) s

/-- The cycle pointer at 0 and the cycle timer started at the full period (R119); stopped while reporting is
inactive. -/
def restartCycle (s : State) : State :=
  let timer :=
    match s.tables.params with
    | none => none
    | some r => if s.reportingActive then some (s.startTimer (r.cyclePeriod * 10)) else none
  { s with reports := { s.reports with cyclePointer := 0, cycleTimer := timer } }

/-- Reporting becomes active: the cycle starts afresh, and the hold timer starts if the queue is not empty (R117). -/
def startReporting (s : State) : State :=
  let t := restartCycle s
  if t.reports.queue.isEmpty then t else t.startHold

/-- The queue keeps only configured sections, in order; the hold timer stops when that empties it (R114, R120,
log 20). -/
def dropUnusedReports (s : State) : State :=
  let q := s.reports.queue.filter s.sectionConfigured
  { s with reports := { s.reports with queue := q, hold := if q.isEmpty then .stopped else s.reports.hold } }

/-- The report queue emptied, which stops the hold timer (R116, R120). -/
def emptyReports (s : State) : State := { s with reports := { s.reports with queue := [], hold := .stopped } }

/-! ## Eligibility and forming -/

/-- The queue is eligible (R121): reporting is active, it is not empty, and it holds at least the report trigger or
the hold timer has expired. -/
def State.eligible (s : State) : Bool :=
  match s.tables.params with
  | none => false
  | some r =>
    s.reportingActive && !s.reports.queue.isEmpty
      && (decide (r.reportTrigger ≤ s.reports.queue.length) || decide (s.reports.hold = .expired))

/-- A report entry read from the section record (R122). -/
def State.reportEntry (s : State) (i : SectionIndex) : ReportEntry where
  index := i
  state := (s.sect i).state
  count := (s.sect i).count
  serial := (s.sect i).serial
  cause := (s.sect i).cause

/-- The report of the (at most 4) oldest entries of the queue (R122). -/
def State.formReport (s : State) : Report where
  version := s.tables.version
  entries := (s.reports.queue.take 4).map s.reportEntry

/-- An own telegram: the header of R147, the next own sequence (R141), and its CRC. -/
def State.ownTelegram (s : State) (kind destination : Byte) (payload : List Byte) : Telegram :=
  let t : Telegram :=
    { kind := kind
      destination := destination
      source := s.ring.ownAddress
      seq := s.ring.ownSeq
      hopBudget := s.hopBudget
      payload := payload
      crc := 0 }
  { t with crc := t.properCrc }

/-- SENDING of an own telegram, which uses one own sequence number (R141). -/
def sendOwn (s : State) (kind destination : Byte) (payload : List Byte) (cls : TxClass) : State :=
  { s with
    ring :=
      { s.ring with
        tx := .sending (s.ownTelegram kind destination payload) cls
        ownSeq := seqSuccessor s.ring.ownSeq } }

/-- The queue after a forming: the entries taken leave it, and the hold timer stops when that empties it (R120,
R122). -/
def takeFormed (s : State) : State :=
  let q := s.reports.queue.drop 4
  { s with reports := { s.reports with queue := q, hold := if q.isEmpty then .stopped else s.reports.hold } }

/-! ## The arbiter -/

/-- The line counts as FREE when it is FREE or in LINE_DOWN (R129, R130). -/
def State.ringInFree (s : State) : Bool :=
  decide (s.ring.condition = .lineDown) || decide (s.ring.activity = .free)

/-- The insertion conditions (R140): the forward buffer is empty and RING IN is FREE; an evaluator with no own
address inserts nothing (R136). -/
def State.mayInsert (s : State) : Bool := s.hasOwnAddress && s.ring.forward.isEmpty && s.ringInFree

/-- The oldest formed answer and the queue without it; the reservation is passed over (R158). -/
def takeAnswer (places : List AnswerPlace) : Option (Answer × List AnswerPlace) :=
  match places with
  | [] => none
  | .formed a :: rest => some (a, rest)
  | .reserved :: rest =>
    match takeAnswer rest with
    | none => none
    | some (a, rest') => some (a, .reserved :: rest')

/-- Class 2 granted: the answer leaves the queue and is sent (R139, R147). -/
def grantAnswer (s : State) (a : Answer) (rest : List AnswerPlace) : State :=
  sendOwn { s with requests := { s.requests with answers := rest } } kindMgmtAnswer a.destination a.toBytes
    (.answer a.restart)

/-- Class 3 granted: the report is formed from the oldest entries and sent to the interlocking (R122, R139). -/
def grantReport (s : State) : State :=
  match s.tables.params with
  | none => s
  | some r => sendOwn (takeFormed s) kindSectionReport r.interlockingAddress s.formReport.toBytes .report

/-- The grant of an own telegram, if one may be inserted: an answer before a report (R139). -/
def grantOwn (s : State) : State :=
  if s.mayInsert then
    match takeAnswer s.requests.answers with
    | some (a, rest) => grantAnswer s a rest
    | none => if s.eligible then grantReport s else s
  else s

/-- The RING OUT arbiter (R139): while the transmitter is IDLE it grants the oldest forwarded telegram, else an own
telegram; while SENDING or in GAP it grants nothing. A report is offered exactly while the queue is eligible (log 30). -/
def arbitrate (s : State) : State :=
  match s.ring.tx with
  | .idle =>
    match s.ring.forward with
    | t :: _ => { s with ring := { s.ring with tx := .sending t .forwarded } }
    | [] => grantOwn s
  | _ => s

/-! ## CYCLE_STEP -/

/-- The first configured index from the cycle pointer upward, wrapping from 31 to 0 (R118). -/
def State.cycleFind (s : State) : Option SectionIndex :=
  ((List.finRange 32).map fun k => s.reports.cyclePointer + k).find? s.sectionConfigured

/-- One cycle step (R118): the timer reloads with the period now held, the section found is queued, and the pointer
moves past it. -/
def cycle (s : State) : State :=
  match s.tables.params, s.cycleFind with
  | some r, some i =>
    let t := queueReport i s
    { t with
      reports := { t.reports with cyclePointer := i + 1, cycleTimer := some (s.startTimer (r.cyclePeriod * 10)) } }
  | _, _ => s

/-- CYCLE_STEP happens when reporting is active and the cycle timer has run its period (R117, R118). -/
def State.cycleDue (s : State) : Bool := s.reportingActive && timerDue s.reports.cycleTimer s.now

/-- CYCLE_STEP (R118). -/
def execCycleStep (s : State) : Host.Outcome State Fault Refusal :=
  powered s (onlyIf s.cycleDue s (arbitrate (cycle s)))

/-! ## HOLD_TIMER_EXPIRY -/

/-- The hold timer runs and its full hold has passed (R120). -/
def State.holdDue (s : State) : Bool :=
  match s.reports.hold with
  | .running t => t.due s.now
  | _ => false

/-- The hold timer expired (R120). -/
def holdExpired (s : State) : State := { s with reports := { s.reports with hold := .expired } }

/-- HOLD_TIMER_EXPIRY (R120, R121). -/
def execHoldTimerExpiry (s : State) : Host.Outcome State Fault Refusal :=
  powered s (onlyIf s.holdDue s (arbitrate (holdExpired s)))

end Sys2Proof.Machine
end

