-- ==== Sys2Proof/Machine/Sections.lean ====
section
/-! DEFINITION. The Section Counter (chapters 3 and 4), the Peer Comparator's evaluation and condition (R103..R110),
and the commands SETTLE_TIMER_EXPIRY and COMPARE_TIMER_EXPIRY. -/

namespace Sys2Proof.Machine

/-! ## Disagreement and the peer condition (5.4, 5.5) -/

/-- Disagreement about a configured section (R103). -/
def State.disagree (s : State) (i : SectionIndex) : Bool :=
  s.sectionConfigured i && decide (s.peer.state = .present)
    && match s.peerEntry i with
      | none => false
      | some e =>
        let own := s.sect i
        if own.state = .disturbed then decide (e.state ≠ .disturbed)
        else decide (e.state = .disturbed) || decide (own.count ≠ e.count)

/-- The evaluation of a section (R105, Table 5-3): disagreement starts a stopped compare timer at the full window and
leaves a running one; agreement stops it. Without a parameter record the peer is never PRESENT and no timer runs (log 26). -/
def evaluate (i : SectionIndex) (s : State) : State :=
  match s.tables.params with
  | none => s
  | some r =>
    if s.disagree i then
      match s.compareTimer i with
      | none => s.setCompare i (some (s.startTimer (r.compareWindow * 10)))
      | some _ => s
    else s.setCompare i none

/-- The peer condition for a section (R109): the peer is PRESENT, an entry is held that shows AWAIT_PEER or CLEAR, and
its age is at most the peer silence limit. -/
def State.peerCondition (s : State) (i : SectionIndex) : Bool :=
  s.sectionConfigured i && decide (s.peer.state = .present)
    && match s.tables.params, s.peerEntry i with
      | some r, some e =>
        (decide (e.state = .awaitPeer) || decide (e.state = .clear))
          && decide ((s.now - e.arrival).toNat ≤ r.silenceLimit * 100)
      | _, _ => false

/-- The Section Counter tells its neighbours of a change of state or count, once per action: the section is queued
for report and the Peer Comparator evaluates it (R69). -/
def tell (i : SectionIndex) (s : State) : State := evaluate i (queueReport i s)

/-- The record of a section after an action, told to the neighbours when its state or count changed (R69). -/
def State.commitSect (s : State) (i : SectionIndex) (r : SectionRecord) : State :=
  let t := s.setSect i r
  if r.state = (s.sect i).state ∧ r.count = (s.sect i).count then t else tell i t

/-! ## Section records -/

/-- A change of state steps the serial by one, modulo 256 (R68). -/
def SectionRecord.enter (r : SectionRecord) (st : SectionState) : SectionRecord :=
  { r with state := st, serial := r.serial + 1 }

/-- Entry into SETTLING loads the settle timer (R59). -/
def SectionRecord.enterSettling (r : SectionRecord) (timer : Option Timer) : SectionRecord :=
  { r.enter .settling with settle := timer }

/-- Entry into DISTURBED from any other state: cause, serial stepped, settle timer stopped, count kept (R65). -/
def SectionRecord.enterDisturbed (r : SectionRecord) (c : SectionCause) : SectionRecord :=
  { r.enter .disturbed with cause := c, settle := none }

/-- A boundary point HEALTHY in a phase other than IDLE occupies its sections (R56). -/
def State.wheelOver (s : State) (p : PointIndex) : Bool :=
  decide ((s.point p).status = .healthy) && decide ((s.point p).phase ≠ .idle)

/-- A wheel stands over some boundary of the section. -/
def State.wheelAtBoundary (s : State) (i : SectionIndex) : Bool := (s.boundaries i).any fun b => s.wheelOver b.point

/-- Occupancy, derived from the count and the phases of the boundary points (R56). -/
def State.occupied (s : State) (i : SectionIndex) : Bool :=
  decide (0 < (s.sect i).count) || s.wheelAtBoundary i

/-- The settle timer loaded now for the settle time of the section (R59). An unused index has no settle time and
loads none; no unused section counts. -/
def State.settleTimer (s : State) (i : SectionIndex) : Option Timer :=
  match s.sectionEntry i with
  | none => none
  | some e => some (s.startTimer (e.settleTime * 100))

/-- The state change that follows from the derived occupancy (3.6, Table 3-8). -/
def SectionRecord.derive (r : SectionRecord) (occupied : Bool) (timer : Option Timer) : SectionRecord :=
  match r.state with
  | .clear => if occupied then r.enter .occupied else r
  | .occupied => if occupied then r else r.enterSettling timer
  | .settling => if occupied then { r.enter .occupied with settle := none } else r
  | .awaitPeer => if occupied then r.enter .occupied else r
  | .sweepRun => if occupied then r else r.enterSettling timer
  | .sweepWait => r
  | .disturbed => r

/-! ## Disturbance (R65) -/

/-- A disturbance of a section: one already DISTURBED changes nothing, any other enters DISTURBED, is told to its
neighbours and sets SECTION_DISTURBED (R65, R70). -/
def disturb (c : SectionCause) (i : SectionIndex) (s : State) : State :=
  if (s.sect i).state = .disturbed then s
  else (s.commitSect i ((s.sect i).enterDisturbed c)).raise .sectionDisturbed

/-! ## Counting (3.4) -/

/-- The change a completed pass asks of a section. -/
inductive CountChange where
  | increment
  | decrement
  deriving DecidableEq, Repr

/-- What a pass in a direction asks of the section on side A of the point (Table 3-3, R50). -/
def changeAtA (d : Direction) : CountChange :=
  match d with
  | .up => .decrement
  | .down => .increment

/-- What a pass in a direction asks of the section on side B of the point (Table 3-3, R50). -/
def changeAtB (d : Direction) : CountChange :=
  match d with
  | .up => .increment
  | .down => .decrement

/-- The outcome of a count step (Table 3-7): the record after it, or the disturbance it raises. -/
inductive CountOutcome where
  | record (r : SectionRecord)
  | disturbance (c : SectionCause)
  deriving DecidableEq, Repr

/-- The count step at one section (Table 3-7, R51..R55). -/
def SectionRecord.countStep (r : SectionRecord) (change : CountChange) : CountOutcome :=
  match r.state, change with
  | .disturbed, _ => .record r
  | .sweepWait, .decrement => .record r
  | .sweepWait, .increment =>
    if 1023 ≤ r.count then .disturbance .overflow else .record { r.enter .sweepRun with count := r.count + 1 }
  | _, .increment =>
    if 1023 ≤ r.count then .disturbance .overflow else .record { r with count := r.count + 1 }
  | _, .decrement =>
    if r.count = 0 then .disturbance .underflow else .record { r with count := r.count - 1 }

/-- A completed pass at one of its two sections: the count step, then the derived occupancy once, as one action told
once (R50, R51). -/
def countAt (change : CountChange) (i : SectionIndex) (s : State) : State :=
  match (s.sect i).countStep change with
  | .disturbance c => disturb c i s
  | .record r =>
    s.commitSect i (r.derive (decide (0 < r.count) || s.wheelAtBoundary i) (s.settleTimer i))

/-- Occupancy re-derived at one section with no count to apply (R35, R56). -/
def rederive (i : SectionIndex) (s : State) : State :=
  s.commitSect i ((s.sect i).derive (s.occupied i) (s.settleTimer i))

/-! ## Events about a point (R47): side A before side B, an outside side skipped -/

/-- Act at a side that is not outside. -/
def atSide (side : Option SectionIndex) (act : SectionIndex → State → State) (s : State) : State :=
  match side with
  | none => s
  | some i => act i s

/-- An announcement of leaving IDLE or of rollback to IDLE at a point (R35). -/
def announceOccupancy (p : PointIndex) (s : State) : State :=
  atSide (s.sides p).sideB rederive (atSide (s.sides p).sideA rederive s)

/-- A pass completed announcement at a point (R36, R50). -/
def announcePass (p : PointIndex) (d : Direction) (s : State) : State :=
  atSide (s.sides p).sideB (countAt (changeAtB d)) (atSide (s.sides p).sideA (countAt (changeAtA d)) s)

/-- A point fault notice (R13, R47). -/
def faultNotice (p : PointIndex) (s : State) : State :=
  atSide (s.sides p).sideB (disturb .pointFault) (atSide (s.sides p).sideA (disturb .pointFault) s)

/-! ## The final step to CLEAR -/

/-- The notice that the peer condition is met: a section in AWAIT_PEER moves to CLEAR, any other ignores it (R62). -/
def peerNotice (i : SectionIndex) (s : State) : State :=
  if (s.sect i).state = .awaitPeer then s.commitSect i ((s.sect i).enter .clear) else s

/-- The record after the settle timer's expiry (R61, R62): CLEAR when the peer address is 0; else AWAIT_PEER, and on
to CLEAR in the same action when the peer condition holds. -/
def State.settled (s : State) (i : SectionIndex) : SectionRecord :=
  let r := { s.sect i with settle := none }
  if s.peerAddress = 0 then r.enter .clear
  else if s.peerCondition i then (r.enter .awaitPeer).enter .clear
  else r.enter .awaitPeer

/-- The settle timer of a SETTLING section has run its settle time (R59, R61). -/
def State.settleDue (s : State) (i : SectionIndex) : Bool :=
  decide ((s.sect i).state = .settling) && timerDue (s.sect i).settle s.now

/-- SETTLE_TIMER_EXPIRY (R61). -/
def execSettleTimerExpiry (index : Nat) (s : State) : Host.Outcome State Fault Refusal :=
  if h : index < 32 then
    let i : SectionIndex := ⟨index, h⟩
    powered s (onlyIf (s.settleDue i) s (arbitrate (s.commitSect i (s.settled i))))
  else .fault (.noSuchSection index)

/-! ## COMPARE_TIMER_EXPIRY -/

/-- The compare timer of a section has run its window (R104). -/
def State.compareDue (s : State) (i : SectionIndex) : Bool := timerDue (s.compareTimer i) s.now

/-- The timer stops, and the section is disturbed with cause PEER_MISMATCH (R106). -/
def compareExpired (i : SectionIndex) (s : State) : State := disturb .peerMismatch i (s.setCompare i none)

/-- COMPARE_TIMER_EXPIRY (R106). -/
def execCompareTimerExpiry (index : Nat) (s : State) : Host.Outcome State Fault Refusal :=
  if h : index < 32 then
    let i : SectionIndex := ⟨index, h⟩
    powered s (onlyIf (s.compareDue i) s (arbitrate (compareExpired i s)))
  else .fault (.noSuchSection index)

/-! ## Events that set every section (R48, R49) -/

/-- Every configured section DISTURBED with the cause, count 0, serial 0, settle timer stopped, set directly and not
by entry; unused records stay (R48, Table 3-6). -/
def setAllSections (c : SectionCause) (s : State) : State :=
  { s with
    sections :=
      { s.sections with
        records :=
          tabulate fun i =>
            if s.sectionConfigured i then
              { state := .disturbed, count := 0, serial := 0, cause := c, settle := none }
            else s.sect i } }

/-- A successful LOAD_CLOSE of SECTIONS: all 32 records DISTURBED(CONFIG), count 0, serial kept (Table 3-6). -/
def setSectionsAtLoad (s : State) : State :=
  { s with
    sections :=
      { s.sections with
        records :=
          tabulate fun i =>
            { state := .disturbed, count := 0, serial := (s.sect i).serial, cause := .config, settle := none } } }

/-- ENTER_CONFIG at one record: a counting section enters DISTURBED(CONFIG), a DISTURBED one takes the cause CONFIG,
and the count becomes 0 (R49). -/
def SectionRecord.toConfig (r : SectionRecord) : SectionRecord :=
  if r.state = .disturbed then { r with cause := .config, count := 0, settle := none }
  else { r.enterDisturbed .config with count := 0 }

/-- Some configured section counts, so ENTER_CONFIG makes an entry into DISTURBED (R49, R70). -/
def State.someCounting (s : State) : Bool :=
  s.configuredSections.any fun i => decide ((s.sect i).state ≠ .disturbed)

/-- ENTER_CONFIG's effect on the sections: every configured record as R49 gives, SECTION_DISTURBED set by any entry,
every configured section queued. -/
def sectionsToConfig (s : State) : State :=
  let t :=
    { s with
      sections :=
        { s.sections with
          records := tabulate fun i => if s.sectionConfigured i then (s.sect i).toConfig else s.sect i } }
  queueAllSections (if s.someCounting then t.raise .sectionDisturbed else t)

/-! ## The side map (R46) -/

/-- One boundary sets its side of its point to the section. -/
def Sides.claim (m : Sides) (x : Side) (i : SectionIndex) : Sides :=
  match x with
  | .a => { m with sideA := some i }
  | .b => { m with sideB := some i }

/-- The boundary entries of a sections table in scan order: sections ascending, each list in its order. -/
def State.allBoundaries (s : State) : List (SectionIndex × Boundary) :=
  s.configuredSections.flatMap fun i => (s.boundaries i).map fun b => (i, b)

/-- The side map of one configured point: both sides outside, then every boundary that names it in turn (R46). -/
def State.buildSides (s : State) (p : PointIndex) : Sides :=
  s.allBoundaries.foldl (fun m ib => if ib.2.point = p then m.claim ib.2.inside ib.1 else m)
    { sideA := none, sideB := none }

/-- The side map built when an activation succeeds; unused points have no entry (R46). -/
def buildSideMap (s : State) : State :=
  { s with
    sections :=
      { s.sections with
        sideMap := tabulate fun p => if s.pointConfigured p then some (s.buildSides p) else none } }

/-! ## Peer resets (R97..R99) -/

/-- The peer ABSENT, no entry held, the silence timer and every compare timer stopped (R97). -/
def peerReset (s : State) : State :=
  { s with
    peer :=
      { state := .absent
        silence := none
        entries := Vector.replicate 32 none
        compare := Vector.replicate 32 none } }

/-! ## Restoration (chapter 4) -/

/-- RESTORE_SWEEP or RESTORE_DIRECT. -/
inductive Restoration where
  | sweep
  | direct
  deriving DecidableEq, Repr

/-- A boundary point that fails check 7 (R80): not HEALTHY, or, for a direct restoration, not in phase IDLE. -/
def State.notReadyAt (s : State) (kind : Restoration) (b : Boundary) : Bool :=
  match kind with
  | .sweep => decide ((s.point b.point).status ≠ .healthy)
  | .direct => decide ((s.point b.point).status ≠ .healthy) || decide ((s.point b.point).phase ≠ .idle)

/-- The first boundary point that fails check 7, in the order of the boundary list (R80). -/
def State.firstNotReady (s : State) (kind : Restoration) (i : SectionIndex) : Option PointIndex :=
  ((s.boundaries i).find? (s.notReadyAt kind)).map Boundary.point

/-- The record a restoration leaves (R66, R81): count 0, cause NONE, serial stepped, SWEEP_WAIT for a sweep and
SETTLING with the settle timer loaded for a direct restoration. -/
def State.restored (s : State) (kind : Restoration) (i : SectionIndex) : SectionRecord :=
  let r := { s.sect i with count := 0, cause := .none }
  match kind with
  | .sweep => r.enter .sweepWait
  | .direct => r.enterSettling (s.settleTimer i)

end Sys2Proof.Machine
end

