-- ==== Sys2Proof/Machine/Points.lean ====
section
/-! DEFINITION. The Point Supervisor and the Discriminator (chapters 1 and 2), and the commands RECORD_TAKE,
RECORD_APPLY, SKIP_OR_SUSPECT_REQUEST_TAKEN, SUPERVISION_EXPIRY and START_UP_LIMIT_EXPIRY. -/

namespace Sys2Proof.Machine

/-! ## Entering FAULTED and leaving STARTING -/

/-- The supervision timer of a point at its full window (R15); an unused point has none. -/
def State.supervisionTimer (s : State) (p : PointIndex) : Option Timer :=
  match s.pointEntry p with
  | none => none
  | some e => some (s.startTimer (e.window * 10))

/-- The record after an entry into FAULTED (R13): run 0, no sequence reference, the supervision timer at the full
window, phase IDLE, no lead; last speed, last direction and suspect counter kept. -/
def PointRecord.enterFaulted (r : PointRecord) (cause : FaultCause) (timer : Option Timer) : PointRecord :=
  { r with
    status := .faulted
    cause := cause
    run := 0
    seqRef := none
    supervision := timer
    phase := .idle
    lead := none }

/-- Entry into FAULTED: the record, then the point fault notice, and the POINT_FAULT latch (R13). -/
def enterFaulted (p : PointIndex) (cause : FaultCause) (s : State) : State :=
  (faultNotice p (s.setPoint p ((s.point p).enterFaulted cause (s.supervisionTimer p)))).raise .pointFault

/-- Some configured point is still STARTING. -/
def State.someStarting (s : State) : Bool :=
  s.configuredPoints.any fun p => decide ((s.point p).status = .starting)

/-- The entry into SERVICE stops the start-up limit timer (R181). -/
def enterService (s : State) : State :=
  { s with tables := { s.tables with mode := .service, startLimit := none } }

/-- A departure from STARTING reported to the Table Store: START-UP ends when it leaves no configured point STARTING
(R10, R181). -/
def reportDeparture (s : State) : State :=
  if s.tables.mode = .startUp ∧ s.someStarting = false then enterService s else s

/-! ## Speed (2.4) -/

/-- The speed measured from a lead to a record, in 0.1 km/h (R30..R33): creep, saturation, quotient limited to 4000. -/
def measureSpeed (lead : Lead) (tick : HeadTick) (arrival : Time) (spacing : Nat) : Nat :=
  if 1200 ≤ (arrival - lead.arrival).toNat then 0
  else
    let span := (tick - lead.tick).toNat
    if span = 0 then 4000 else min 4000 (spacing * 1800 / span)

/-! ## The phase machine (2.2) -/

/-- What a cell of Table 2-4 does. -/
inductive PhaseStep where
  /-- stay (R25) -/
  | stay
  /-- a new phase and nothing else (R22) -/
  | move (phase : Phase)
  /-- leave IDLE: lead taken, announced -/
  | leaveIdle (phase : Phase)
  /-- back to the first sensor alone: lead retaken (R27) -/
  | retake (phase : Phase)
  /-- from the first sensor alone to both: speed measured (R30) -/
  | measure (phase : Phase)
  /-- back to IDLE without a pass, announced (R26) -/
  | rollback
  /-- a pass completed (R36) -/
  | complete (direction : Direction)
  /-- an illegal transition (R24) -/
  | skip
  deriving DecidableEq, Repr

/-- Table 2-4: the cell for a phase and a level pair (S1, S2). -/
def phaseCell (phase : Phase) (s1 s2 : Bool) : PhaseStep :=
  match phase, s1, s2 with
  | .idle, false, false => .stay
  | .idle, true, false => .leaveIdle .up1
  | .idle, true, true => .skip
  | .idle, false, true => .leaveIdle .dn1
  | .up1, false, false => .rollback
  | .up1, true, false => .stay
  | .up1, true, true => .measure .up2
  | .up1, false, true => .skip
  | .up2, false, false => .skip
  | .up2, true, false => .retake .up1
  | .up2, true, true => .stay
  | .up2, false, true => .move .up3
  | .up3, false, false => .complete .up
  | .up3, true, false => .skip
  | .up3, true, true => .move .up2
  | .up3, false, true => .stay
  | .dn1, false, false => .rollback
  | .dn1, true, false => .skip
  | .dn1, true, true => .measure .dn2
  | .dn1, false, true => .stay
  | .dn2, false, false => .skip
  | .dn2, true, false => .move .dn3
  | .dn2, true, true => .stay
  | .dn2, false, true => .retake .dn1
  | .dn3, false, false => .complete .down
  | .dn3, true, false => .stay
  | .dn3, true, true => .move .dn2
  | .dn3, false, true => .skip

/-- The lead a record gives (R28). -/
def EventRecord.lead (r : EventRecord) : Lead where
  tick := r.tick
  arrival := r.arrival

/-- The last speed after a measuring step (R30). A point out of IDLE always has a lead (R20) and a configured point a
spacing; without them nothing is measured (log 14). -/
def State.speedAfter (s : State) (r : EventRecord) : Nat :=
  match (s.point r.point).lead, s.pointEntry r.point with
  | some l, some e => measureSpeed l r.tick r.arrival e.spacing
  | _, _ => (s.point r.point).lastSpeed

/-- The suspect counter after the judgement of a completed pass (R37, R38). -/
def judgedSuspect (suspect lastSpeed ceiling : Nat) : Nat :=
  if ceiling < lastSpeed then suspect + 1 else suspect - 1

/-- The judgement of a completed pass (R36 steps 4 and 5, R37..R40): the suspect counter is updated, and when a suspect
pass brings it to the limit (log 23) it is set to 0 and FAULTED(SUSPECT) is requested. -/
def judge (p : PointIndex) (s : State) : State :=
  match s.pointEntry p with
  | none => s
  | some e =>
    let r := s.point p
    let c := judgedSuspect r.suspect r.lastSpeed e.ceiling
    if e.ceiling < r.lastSpeed ∧ e.suspectLimit ≤ c then
      let t := s.setPoint p { r with suspect := 0 }
      { t with points := { t.points with request := some { point := p, cause := .suspect } } }
    else s.setPoint p { r with suspect := c }

/-- The phase step of an applied record (R22). -/
def phaseStep (r : EventRecord) (s : State) : State :=
  let p := r.point
  let pr := s.point p
  match phaseCell pr.phase r.s1 r.s2 with
  | .stay => s
  | .move ph => s.setPoint p { pr with phase := ph }
  | .leaveIdle ph => announceOccupancy p (s.setPoint p { pr with phase := ph, lead := some r.lead })
  | .retake ph => s.setPoint p { pr with phase := ph, lead := some r.lead }
  | .measure ph => s.setPoint p { pr with phase := ph, lastSpeed := s.speedAfter r }
  | .rollback => announceOccupancy p (s.setPoint p { pr with phase := .idle, lead := none })
  | .complete d =>
    judge p
      (announcePass p d (s.setPoint p { pr with phase := .idle, lead := none, lastDirection := some d }))
  | .skip => { s with points := { s.points with request := some { point := p, cause := .skip } } }

/-! ## Applying a record (1.6 to 1.9) -/

/-- The sequence check in HEALTHY (Table 1-6). -/
inductive SequenceJudgement where
  | accepted
  | duplicate
  | fault (cause : FaultCause)
  deriving DecidableEq, Repr

/-- Table 1-6: the first test that holds decides (R9). -/
def judgeSequence (reference : Option Byte) (seq : Byte) : SequenceJudgement :=
  if reference.map seqSuccessor = some seq then .accepted
  else if reference = some seq then .duplicate
  else if seq = 0 then .fault .headRestart
  else .fault .gap

/-- A record applied to a HEALTHY point (R9, R12). -/
def applyHealthy (r : EventRecord) (s : State) : State :=
  match judgeSequence (s.point r.point).seqRef r.seq with
  | .duplicate => s
  | .fault c => enterFaulted r.point c s
  | .accepted =>
    let t := s.setPoint r.point { s.point r.point with seqRef := some r.seq }
    if r.health.nonzero then enterFaulted r.point .headReport t else phaseStep r t

/-- The first record applied to a STARTING point (R10, Table 1-7); the departure is reported to the Table Store. -/
def applyStarting (r : EventRecord) (s : State) : State :=
  if r.health.nonzero then reportDeparture (enterFaulted r.point .headReport s)
  else if r.s1 || r.s2 then reportDeparture (enterFaulted r.point .occupiedAtStart s)
  else
    reportDeparture
      (s.setPoint r.point
        { s.point r.point with
          status := .healthy
          seqRef := some r.seq
          supervision := s.supervisionTimer r.point })

/-- An acceptable record in FAULTED (Table 1-8). -/
def acceptable (reference : Option Byte) (r : EventRecord) : Bool :=
  !r.s1 && !r.s2 && !r.health.nonzero
    && match reference with
      | none => decide (r.seq ≠ 0)
      | some q => decide (r.seq = seqSuccessor q)

/-- A record applied to a FAULTED point (R11): the recovery run advances, completes (log 23) or is reset, and the record's
sequence becomes the reference. -/
def PointRecord.recover (pr : PointRecord) (r : EventRecord) (recoveryCount : Nat) : PointRecord :=
  if acceptable pr.seqRef r then
    if recoveryCount ≤ pr.run + 1 then
      { pr with
        status := .healthy
        phase := .idle
        cause := .none
        run := 0
        suspect := 0
        seqRef := some r.seq }
    else { pr with run := pr.run + 1, seqRef := some r.seq }
  else { pr with run := 0, seqRef := some r.seq }

/-- A record applied to a FAULTED point (R11); nothing of it reaches the phase machine or the Section Counter. -/
def applyFaulted (r : EventRecord) (s : State) : State :=
  match s.pointEntry r.point with
  | none => s
  | some e => s.setPoint r.point ((s.point r.point).recover r e.recoveryCount)

/-- A record applied by the status of its point at this moment (R8). A record of an INACTIVE or UNUSED point cannot be
applied: every event that makes a point so has discarded it. -/
def applyRecord (r : EventRecord) (s : State) : State :=
  match (s.point r.point).status with
  | .healthy => applyHealthy r s
  | .starting => applyStarting r s
  | .faulted => applyFaulted r s
  | .inactive => s
  | .unused => s

/-! ## Events of R2 -/

/-- An event of R2: every configured point takes the status with initial values, every other is UNUSED, the point event
queue is emptied, and a record in processing and a request not yet taken are discarded (R2, R6, R7, R21, R24). -/
def resetPoints (status : PointStatus) (s : State) : State :=
  { s with
    points :=
      { records := tabulate fun p => PointRecord.initial (if s.pointConfigured p then status else .unused)
        queue := []
        processing := none
        request := none } }

/-! ## Intake (1.4, 1.5) -/

/-- Offer an event record: at the tail while the queue holds fewer than 64, else discarded with EVENT_OVERRUN (R6). -/
def offerRecord (r : EventRecord) (s : State) : State :=
  if s.points.queue.length < 64 then { s with points := { s.points with queue := s.points.queue ++ [r] } }
  else s.raise .eventOverrun

/-- An arrival restarts the supervision timer of a HEALTHY or FAULTED point (R5). -/
def restartSupervision (p : PointIndex) (s : State) : State :=
  match (s.point p).status with
  | .healthy => s.setPoint p { s.point p with supervision := s.supervisionTimer p }
  | .faulted => s.setPoint p { s.point p with supervision := s.supervisionTimer p }
  | _ => s

/-- The event record formed from a head telegram (R5). -/
def eventRecordOf (p : PointIndex) (seq : Byte) (h : HeadState) (arrival : Time) : EventRecord where
  point := p
  seq := seq
  s1 := h.s1
  s2 := h.s2
  tick := h.tick
  health := h.health
  arrival := arrival

/-- The snoop of a HEAD_STATE telegram (R4, R5): in START-UP or SERVICE, well formed, from a configured head. -/
def snoopHead (t : Telegram) (s : State) : State :=
  if s.tables.mode = .config then s
  else
    match headStateOf t.payload, s.headPoint t.source with
    | some h, some p => offerRecord (eventRecordOf p t.seq h s.now) (restartSupervision p s)
    | _, _ => s

/-! ## RECORD_TAKE and RECORD_APPLY -/

/-- The Discriminator may take a record: it is idle, and no request of the last record is waiting (R7, R24). -/
def State.mayTake (s : State) : Bool := s.points.processing.isNone && s.points.request.isNone

/-- The head record leaves the queue and is processed (R7). -/
def takeRecord (s : State) : State :=
  match s.points.queue with
  | [] => s
  | r :: rest => { s with points := { s.points with queue := rest, processing := some r } }

/-- RECORD_TAKE (R7). -/
def execRecordTake (s : State) : Host.Outcome State Fault Refusal :=
  powered s (onlyIf s.mayTake s (takeRecord s))

/-- The record in processing is applied, and the Discriminator becomes idle (R7). -/
def applyTaken (s : State) : State :=
  match s.points.processing with
  | none => s
  | some r => arbitrate (applyRecord r { s with points := { s.points with processing := none } })

/-- RECORD_APPLY (R7). -/
def execRecordApply (s : State) : Host.Outcome State Fault Refusal := powered s (applyTaken s)

/-! ## SKIP_OR_SUSPECT_REQUEST_TAKEN -/

/-- The request taken by a HEALTHY point, dropped by any other (R3, R24, R40). -/
def takeRequest (q : FaultRequest) (s : State) : State :=
  let t := { s with points := { s.points with request := none } }
  if (t.point q.point).status = .healthy then enterFaulted q.point q.cause t else t

/-- The Discriminator's request, if one waits, is taken or dropped (R24). -/
def requestTaken (s : State) : State :=
  match s.points.request with
  | none => s
  | some q => arbitrate (takeRequest q s)

/-- SKIP_OR_SUSPECT_REQUEST_TAKEN (R24, R40). -/
def execSkipOrSuspectRequestTaken (s : State) : Host.Outcome State Fault Refusal := powered s (requestTaken s)

/-! ## SUPERVISION_EXPIRY -/

/-- The supervision timer of a HEALTHY or FAULTED point has run its full window (R15). -/
def State.supervisionDue (s : State) (p : PointIndex) : Bool :=
  (decide ((s.point p).status = .healthy) || decide ((s.point p).status = .faulted))
    && timerDue (s.point p).supervision s.now

/-- A supervision expiry (R15): a HEALTHY point enters FAULTED(SILENT); a FAULTED point's run becomes 0 and its timer
restarts. -/
def supervisionExpired (p : PointIndex) (s : State) : State :=
  if (s.point p).status = .healthy then enterFaulted p .silent s
  else s.setPoint p { s.point p with run := 0, supervision := s.supervisionTimer p }

/-- SUPERVISION_EXPIRY (R15, R16). -/
def execSupervisionExpiry (point : Nat) (s : State) : Host.Outcome State Fault Refusal :=
  if h : point < 48 then
    let p : PointIndex := ⟨point, h⟩
    powered s (onlyIf (s.supervisionDue p) s (arbitrate (supervisionExpired p s)))
  else .fault (.noSuchPoint point)

/-! ## START_UP_LIMIT_EXPIRY -/

/-- The start-up limit timer has run in START-UP (R17). -/
def State.startLimitDue (s : State) : Bool :=
  decide (s.tables.mode = .startUp) && timerDue s.tables.startLimit s.now

/-- A point still STARTING is faulted as START_TIMEOUT (R17). -/
def timeoutPoint (s : State) (p : PointIndex) : State :=
  if (s.point p).status = .starting then enterFaulted p .startTimeout s else s

/-- The start-up limit expires (R17, R181): every point still STARTING is faulted, in ascending order (log 13), and the
mode becomes SERVICE. -/
def startLimitExpired (s : State) : State := enterService ((List.finRange 48).foldl timeoutPoint s)

/-- START_UP_LIMIT_EXPIRY (R17). -/
def execStartUpLimitExpiry (s : State) : Host.Outcome State Fault Refusal :=
  powered s (onlyIf s.startLimitDue s (arbitrate (startLimitExpired s)))

end Sys2Proof.Machine
end

