-- ==== Sys2Proof/Machine/Tables.lean ====
section
/-! DEFINITION. The Table Store (chapter 10): the load transaction, ENTER_CONFIG, activation and validation, and the
commands LOAD_IDLE_TIMEOUT and ACTIVATION_END. -/

namespace Sys2Proof.Machine

/-! ## The load transaction (10.3) -/

/-- The number of entries staged so far, which is the expected index (Table 10-3). -/
def Staged.size (x : Staged) : Nat :=
  match x with
  | .points es => es.length
  | .sections es => es.length
  | .parameters es => es.length

/-- A new load of the table with this code and entry count; none when either is out of range (R172). -/
def loadOf (code count : Byte) : Option Staged :=
  match code.toNat with
  | 1 => if within 1 count.toNat 48 then some (.points []) else none
  | 2 => if within 1 count.toNat 32 then some (.sections []) else none
  | 3 => if within 1 count.toNat 1 then some (.parameters []) else none
  | _ => none

/-- The load's idle timer at 5000 ms (R172, R173). -/
def State.idleTimer (s : State) : Timer := s.startTimer 5000

/-- The open load replaced, or closed. -/
def State.setLoad (s : State) (l : Option Load) : State := { s with tables := { s.tables with load := l } }

/-- The fields of a LOAD_ENTRY in the numbering of R152 against the open load: field 1, the table code, must name the
table of the load; the entry index, field 2, has been found equal to the expected index. -/
def entryFieldChecks (staged : Staged) (ps : List Byte) : List (Nat × Bool) :=
  (1, paramByte ps 0 == staged.code)
    :: match staged with
      | .points _ => pointFieldChecks ps
      | .sections _ => sectionFieldChecks ps
      | .parameters _ => paramFieldChecks ps

/-- An entry whose fields are all in range, staged at the tail (R173). -/
def stageEntry (staged : Staged) (ps : List Byte) : Staged :=
  match staged with
  | .points es => .points (es ++ [pointEntryOf ps])
  | .sections es => .sections (es ++ [sectionEntryOf ps])
  | .parameters es => .parameters (es ++ [paramRecordOf ps])

/-- Reporting becomes active at the LOAD_CLOSE that completes the pair of tables (R117). `before` is the state before
the LOAD_CLOSE. -/
def maybeStartReporting (before s : State) : State :=
  if s.reportingActive && !before.reportingActive then startReporting s else s

/-- A successful LOAD_CLOSE: the held table is replaced, with the effects of Table 10-4 (R175, log 19). -/
def closeLoad (staged : Staged) (s : State) : State :=
  let t := s.setLoad none
  match staged with
  | .points es => resetPoints .inactive { t with tables := { t.tables with points := es } }
  | .sections es =>
    maybeStartReporting s (dropUnusedReports (setSectionsAtLoad { t with tables := { t.tables with sections := es } }))
  | .parameters es =>
    maybeStartReporting s { t with tables := { t.tables with params := es.getLast? } }

/-! ## LOAD_IDLE_TIMEOUT -/

/-- The idle timer of the open load has run 5000 ms (R174). -/
def State.loadIdleDue (s : State) : Bool :=
  match s.tables.load with
  | none => false
  | some l => l.idle.due s.now

/-- LOAD_IDLE_TIMEOUT (R174): the open load is aborted. -/
def execLoadIdleTimeout (s : State) : Host.Outcome State Fault Refusal :=
  powered s (onlyIf s.loadIdleDue s (s.setLoad none))

/-! ## ENTER_CONFIG (10.4) -/

/-- ENTER_CONFIG accepted in START-UP or SERVICE (R176). -/
def enterConfig (s : State) : State :=
  let t := { s with tables := { s.tables with mode := .config, activated := false, startLimit := none } }
  peerReset (resetPoints .inactive (sectionsToConfig t))

/-! ## Validation (R178) -/

/-- The first element of a list that stands in the relation to an earlier one; `seen` holds the earlier ones. -/
def firstAgainstEarlier {α : Type} (rel : α → α → Bool) (seen : List α) (l : List α) : Option α :=
  match l with
  | [] => none
  | x :: rest => if seen.any fun y => rel y x then some x else firstAgainstEarlier rel (x :: seen) rest

/-- Two boundaries name the same side of the same point. -/
def Boundary.sameSide (b c : Boundary) : Bool := decide (b.point = c.point) && decide (b.inside = c.inside)

/-- Two boundaries name the two sides of one point. -/
def Boundary.otherSide (b c : Boundary) : Bool := decide (b.point = c.point) && decide (b.inside ≠ c.inside)

/-- Code 3: the first section with a boundary that names an unused point. -/
def State.check3 (s : State) : Option SectionIndex :=
  s.configuredSections.find? fun i => (s.boundaries i).any fun b => !s.pointConfigured b.point

/-- Code 4: the point of the first boundary entry that names a point side named by an earlier entry. -/
def State.check4 (s : State) : Option PointIndex :=
  (firstAgainstEarlier Boundary.sameSide [] (s.allBoundaries.map Prod.snd)).map Boundary.point

/-- Code 5: the point of the first entry whose other side stands earlier in the same list. -/
def State.check5 (s : State) : Option PointIndex :=
  s.configuredSections.findSome? fun i =>
    (firstAgainstEarlier Boundary.otherSide [] (s.boundaries i)).map Boundary.point

/-- Code 6: the first configured point that no boundary entry names. -/
def State.check6 (s : State) : Option PointIndex :=
  s.configuredPoints.find? fun p => !s.allBoundaries.any fun ib => decide (ib.2.point = p)

/-- The head address of a configured point. -/
def State.headAddress (s : State) (p : PointIndex) : Option Byte := (s.pointEntry p).map PointEntry.headAddress

/-- Code 7: the first configured point with the head address of a lower configured point. -/
def State.check7 (s : State) : Option PointIndex :=
  s.configuredPoints.find? fun p =>
    s.configuredPoints.any fun q => decide (q < p) && decide (s.headAddress q = s.headAddress p)

/-- The addresses a head address may not equal (code 8). -/
def State.stationAddresses (s : State) : List Byte :=
  match s.tables.params with
  | none => [s.ring.ownAddress]
  | some r =>
    [s.ring.ownAddress, r.peerAddress, r.pairAddress, r.interlockingAddress, r.maintenanceAddress]

/-- Code 8: the first configured point whose head address equals a station address. -/
def State.check8 (s : State) : Option PointIndex :=
  s.configuredPoints.find? fun p => s.stationAddresses.any fun a => decide (s.headAddress p = some a)

/-- Validation (R178, Table 10-5): the code and index of the first check that fails, none when all pass. -/
def State.validate (s : State) : Option (Byte × Byte) :=
  if s.tables.params.isNone then some (1, 255)
  else if s.configuredSections.isEmpty then some (2, 255)
  else
    match s.check3 with
    | some i => some (3, byte i.val)
    | none =>
      match s.check4 with
      | some p => some (4, byte p.val)
      | none =>
        match s.check5 with
        | some p => some (5, byte p.val)
        | none =>
          match s.check6 with
          | some p => some (6, byte p.val)
          | none =>
            match s.check7 with
            | some p => some (7, byte p.val)
            | none =>
              match s.check8 with
              | some p => some (8, byte p.val)
              | none => none

/-! ## ACTIVATION_END -/

/-- The answer of an activation joins the tail of the answer queue and releases its reservation (R159); the activation
is no longer in flight. -/
def answerActivation (a : Activation) (outcome : AnswerOutcome) (data : List Byte) (s : State) : State :=
  { s with
    requests :=
      { s.requests with
        answers :=
          s.requests.answers.erase .reserved
            ++ [.formed
                { destination := a.source
                  code := 0x24
                  tag := a.tag
                  outcome := outcome
                  data := data
                  restart := false }]
        activation := none } }

/-- Every configured section DISTURBED(START), count 0, serial 0, and queued (R48, R116). -/
def startSections (c : SectionCause) (s : State) : State := queueAllSections (setAllSections c s)

/-- A successful activation puts the held tables into use (R179). -/
def activateTables (version : BitVec 16) (s : State) : State :=
  let t :=
    { s with
      tables :=
        { s.tables with
          version := version
          activated := true
          mode := .startUp
          startLimit := some (s.startTimer 10000) } }
  restartCycle (peerReset (startSections .start (resetPoints .starting (buildSideMap t))))

/-- The activation in flight ends (R179, R180). -/
def endActivation (a : Activation) (s : State) : State :=
  match s.validate with
  | some (code, index) => answerActivation a .invalid [code, index] s
  | none => answerActivation a .done (twoBytes a.version.toNat) (activateTables a.version s)

/-- The end of the activation, when one is in flight. -/
def activationEnded (s : State) : State :=
  match s.requests.activation with
  | none => s
  | some a => arbitrate (endActivation a s)

/-- ACTIVATION_END (R179, R180). -/
def execActivationEnd (s : State) : Host.Outcome State Fault Refusal := powered s (activationEnded s)

end Sys2Proof.Machine
end

