-- ==== Sys2Proof/Machine/Requests.lean ====
section
/-! DEFINITION. The Request Executor (chapter 9): taking a management request and every request's effect and answer. -/

namespace Sys2Proof.Machine

/-- A MGMT_REQUEST handed over: its source and its whole payload (R151, R155). -/
structure Request where
  source : Byte
  payload : List Byte
  deriving DecidableEq, Repr

/-- What the rule of a request gives: the state after its effect, the outcome and the answer data (R153). -/
structure Executed where
  state : State
  outcome : AnswerOutcome
  data : List Byte

/-- A request refused without effect. -/
def refuse (s : State) (outcome : AnswerOutcome) (data : List Byte) : Executed where
  state := s
  outcome := outcome
  data := data

/-- A request that is DONE. -/
def done (s : State) (data : List Byte) : Executed where
  state := s
  outcome := .done
  data := data

/-! ## Authority (9.2) -/

/-- The source counts as the maintenance address (R156): every source 1..254 while no record is held. -/
def State.isMaintenance (s : State) (source : Byte) : Bool :=
  source != 0 && source != 255
    && match s.tables.params with
      | none => true
      | some r => source == r.maintenanceAddress

/-- The source counts as the interlocking address (R156). -/
def State.isInterlocking (s : State) (source : Byte) : Bool :=
  source != 0 && source != 255
    && match s.tables.params with
      | none => false
      | some r => source == r.interlockingAddress

/-- The class of a request: an unknown code and a payload too short to carry one count as maintenance (R156). -/
def payloadIsOperator (payload : List Byte) : Bool :=
  match payload with
  | [] => false
  | c :: _ =>
    match RequestCode.ofCode c with
    | none => false
    | some code => code.isOperator

/-- Authority by source (Table 9-1). -/
def State.authorised (s : State) (q : Request) : Bool :=
  s.isMaintenance q.source || (s.isInterlocking q.source && payloadIsOperator q.payload)

/-! ## Reading requests (9.4) -/

/-- The load fields of READ_STATUS: table code, entry count, expected index, all 0 when no load is open (R160). -/
def State.loadBytes (s : State) : List Byte :=
  match s.tables.load with
  | none => [0, 0, 0]
  | some l => [l.staged.code, byte l.count, byte l.staged.size]

/-- Which tables are held: bit 0 points, bit 1 sections, bit 2 parameters, bit 3 activated flag (Table 8-16); a table
is held when it has an entry (log 27). -/
def State.heldByte (s : State) : Byte :=
  byte
    ((if s.tables.points.isEmpty then 0 else 1) + (if s.tables.sections.isEmpty then 0 else 2)
      + (if s.tables.params.isSome then 4 else 0) + (if s.tables.activated then 8 else 0))

/-- READ_STATUS (R160). -/
def readStatus (s : State) : Executed :=
  done s
    ([s.tables.mode.code] ++ twoBytes s.attention.latches.toNat ++ twoBytes s.attention.mask.toNat
      ++ [s.peer.state.code, s.ring.loop.code] ++ twoBytes s.tables.version.toNat ++ s.loadBytes
      ++ [flagByte s.requests.activation.isSome, s.heldByte])

/-- The age of a peer entry in 100 ms steps, rounded down and limited to 255 (R113). -/
def State.entryAge (s : State) (e : PeerEntry) : Nat := min 255 ((s.now - e.arrival).toNat / 100)

/-- The peer entry bytes of READ_SECTION: held flag, state, count, serial, age; zeros when none is held (R161). -/
def State.peerBytes (s : State) (i : SectionIndex) : List Byte :=
  match s.peerEntry i with
  | none => [0, 0, 0, 0, 0, 0]
  | some e => [1, e.state.code] ++ twoBytes e.count ++ [e.serial, byte (s.entryAge e)]

/-- A section index byte that names a configured section of the held table. -/
def State.configuredSection (s : State) (b : Byte) : Option SectionIndex :=
  match sectionOfByte b with
  | none => none
  | some i => if s.sectionConfigured i then some i else none

/-- A point index byte that names a configured point of the held table. -/
def State.configuredPoint (s : State) (b : Byte) : Option PointIndex :=
  match pointOfByte b with
  | none => none
  | some p => if s.pointConfigured p then some p else none

/-- READ_SECTION (R161, R71, R113). -/
def readSection (s : State) (ps : List Byte) : Executed :=
  match s.configuredSection (paramByte ps 0) with
  | none => refuse s .badIndex [paramByte ps 0]
  | some i =>
    let r := s.sect i
    done s
      ([paramByte ps 0, r.state.code] ++ twoBytes r.count
        ++ [r.serial, r.cause.code, byte (settleSteps r.settle s.now), flagByte (s.compareTimer i).isSome]
        ++ s.peerBytes i)

/-- The sequence reference bytes of READ_POINT: held flag and value, 0 when none. -/
def seqRefBytes (x : Option Byte) : List Byte :=
  match x with
  | none => [0, 0]
  | some q => [1, q]

/-- READ_POINT (R162, R18, R42): any index 0..47, configured or not. -/
def readPoint (s : State) (ps : List Byte) : Executed :=
  match pointOfByte (paramByte ps 0) with
  | none => refuse s .badIndex [paramByte ps 0]
  | some p =>
    let r := s.point p
    done s
      ([paramByte ps 0, r.status.code, r.phase.code, r.cause.code, byte r.run] ++ twoBytes r.lastSpeed
        ++ [directionCode r.lastDirection, byte r.suspect] ++ seqRefBytes r.seqRef)

/-! ## Attention requests (9.7, 9.8) and CLEAR_SUSPECT (9.5) -/

/-- ACK_ATTENTION (R166): the answer carries the latches after the clearing. -/
def ackAttention (s : State) (ps : List Byte) : Executed :=
  let t := s.acknowledge (BitVec.ofNat 16 (paramWord ps 0))
  done t (twoBytes t.attention.latches.toNat)

/-- SET_ALARM_MASK (R167): the answer carries the mask now held. -/
def setMask (s : State) (ps : List Byte) : Executed :=
  let t := s.setAlarmMask (BitVec.ofNat 16 (paramWord ps 0))
  done t (twoBytes t.attention.mask.toNat)

/-- CLEAR_SUSPECT (R163, R41). -/
def clearSuspect (s : State) (ps : List Byte) : Executed :=
  match s.configuredPoint (paramByte ps 0) with
  | none => refuse s .badIndex [paramByte ps 0]
  | some p => done (s.setPoint p { s.point p with suspect := 0 }) [paramByte ps 0]

/-! ## Restorations (chapter 4) -/

/-- The section's state, serial and cause as answer data (Table 4-3). -/
def State.sectionBytes (s : State) (i : SectionIndex) : List Byte :=
  [(s.sect i).state.code, (s.sect i).serial, (s.sect i).cause.code]

/-- RESTORE_SWEEP and RESTORE_DIRECT: the checks of Table 4-2 in order, and the restoration when all pass (R74..R82). -/
def restoreSection (kind : Restoration) (s : State) (source : Byte) (ps : List Byte) : Executed :=
  let b := paramByte ps 0
  if s.tables.mode ≠ .service then refuse s .wrongMode [b]
  else
    match s.configuredSection b with
    | none => refuse s .badIndex [b]
    | some i =>
      if kind = .direct ∧ s.isMaintenance source = false then refuse s .notPermitted ([b] ++ s.sectionBytes i)
      else if kind = .direct ∧ (s.sectionEntry i).map SectionEntry.permission ≠ some .sweepOrDirect then
        refuse s .notPermitted ([b] ++ s.sectionBytes i)
      else if (s.sect i).state ≠ .disturbed then refuse s .wrongState ([b] ++ s.sectionBytes i)
      else if paramByte ps 1 ≠ (s.sect i).serial then refuse s .stale ([b] ++ s.sectionBytes i)
      else
        match s.firstNotReady kind i with
        | some p => refuse s .notReady ([b] ++ s.sectionBytes i ++ [byte p.val])
        | none =>
          let t := s.commitSect i (s.restored kind i)
          done t ([b] ++ t.sectionBytes i)

/-! ## Table requests (chapter 10) -/

/-- ENTER_CONFIG (R176): in CONFIG it changes nothing. -/
def enterConfigRequest (s : State) : Executed := done (if s.tables.mode = .config then s else enterConfig s) []

/-- LOAD_OPEN (R172). -/
def loadOpen (s : State) (ps : List Byte) : Executed :=
  let code := paramByte ps 0
  if s.tables.mode ≠ .config then refuse s .wrongMode [code, 255]
  else
    match s.tables.load with
    | some l => refuse s .loadBusy [code, byte l.staged.size]
    | none =>
      match loadOf code (paramByte ps 1) with
      | none => refuse s .badField [code, 255]
      | some staged =>
        done (s.setLoad (some { staged := staged, count := (paramByte ps 1).toNat, idle := s.idleTimer })) [code, 0]

/-- LOAD_ENTRY (R173): count, order, fields, in this order. Each outcome that leaves the load open restarts its idle
timer. -/
def loadEntry (s : State) (ps : List Byte) : Executed :=
  let index := paramByte ps 1
  match s.tables.load with
  | none => refuse s .noLoad [index, 255]
  | some l =>
    let kept := s.setLoad (some { l with idle := s.idleTimer })
    if l.count ≤ l.staged.size then refuse kept .countDone [index, byte l.staged.size]
    else if index.toNat ≠ l.staged.size then refuse (s.setLoad none) .outOfOrder [index, 255]
    else
      match firstBadField (entryFieldChecks l.staged ps) with
      | some n => refuse kept .badField [index, byte l.staged.size, byte n]
      | none =>
        let staged := stageEntry l.staged ps
        done (s.setLoad (some { l with staged := staged, idle := s.idleTimer })) [index, byte staged.size]

/-- LOAD_CLOSE (R175). With no load open the answer's entries received and entry count are 0 (DEDUCED, log 11). -/
def loadClose (s : State) : Executed :=
  match s.tables.load with
  | none => refuse s .noLoad [0, 0, 0]
  | some l =>
    let data := [l.staged.code, byte l.staged.size, byte l.count]
    if l.staged.size < l.count then refuse s .short data else done (closeLoad l.staged s) data

/-! ## Taking a request (9.1) -/

/-- Append a formed answer. -/
def pushAnswer (a : Answer) (s : State) : State :=
  { s with requests := { s.requests with answers := s.requests.answers ++ [.formed a] } }

/-- The answer to a request with its code and tag as received (R153). -/
def answerOf (source code tag : Byte) (outcome : AnswerOutcome) (data : List Byte) : Answer where
  destination := source
  code := code
  tag := tag
  outcome := outcome
  data := data
  restart := false

/-- The answer to an executed request takes its place at the tail, after the effect, in the same action (R158). -/
def answered (source code tag : Byte) (x : Executed) : State :=
  pushAnswer (answerOf source code tag x.outcome x.data) x.state

/-- ACTIVATE (R177): three refusals, which carry no data; else the activation begins and its answer's place is
reserved. -/
def activateRequest (source code tag : Byte) (ps : List Byte) (s : State) : State :=
  let version : BitVec 16 := BitVec.ofNat 16 (paramWord ps 0)
  if s.tables.mode ≠ .config then answered source code tag (refuse s .wrongMode [])
  else if s.tables.load.isSome then answered source code tag (refuse s .loadBusy [])
  else if version = 0 then answered source code tag (refuse s .badField [])
  else
    { s with
      requests :=
        { s.requests with
          answers := s.requests.answers ++ [.reserved]
          activation := some { version := version, source := source, tag := tag, began := s.now } } }

/-- RESTART (R164): answered DONE, and a restart pending is marked against this answer unless one is already. -/
def restartRequest (source code tag : Byte) (s : State) : State :=
  pushAnswer { answerOf source code tag .done [] with restart := !s.requests.restartPending }
    { s with requests := { s.requests with restartPending := true } }

/-- Execution by the rule of the code (R155 step 5). -/
def executeRequest (c : RequestCode) (source code tag : Byte) (ps : List Byte) (s : State) : State :=
  match c with
  | .readStatus => answered source code tag (readStatus s)
  | .readSection => answered source code tag (readSection s ps)
  | .readPoint => answered source code tag (readPoint s ps)
  | .ackAttention => answered source code tag (ackAttention s ps)
  | .restoreSweep => answered source code tag (restoreSection .sweep s source ps)
  | .setAlarmMask => answered source code tag (setMask s ps)
  | .restoreDirect => answered source code tag (restoreSection .direct s source ps)
  | .clearSuspect => answered source code tag (clearSuspect s ps)
  | .enterConfig => answered source code tag (enterConfigRequest s)
  | .loadOpen => answered source code tag (loadOpen s ps)
  | .loadEntry => answered source code tag (loadEntry s ps)
  | .loadClose => answered source code tag (loadClose s)
  | .activate => activateRequest source code tag ps s
  | .restart => restartRequest source code tag s

/-- READ_STATUS and RESTART are executed while an activation is in flight; every other request is BUSY (R159). -/
def RequestCode.runsInFlight (c : RequestCode) : Bool :=
  match c with
  | .readStatus => true
  | .restart => true
  | .readSection => false
  | .readPoint => false
  | .ackAttention => false
  | .restoreSweep => false
  | .setAlarmMask => false
  | .restoreDirect => false
  | .clearSuspect => false
  | .enterConfig => false
  | .loadOpen => false
  | .loadEntry => false
  | .loadClose => false
  | .activate => false

/-- Form, activation in flight, execution (R155 steps 3 to 5, R151) of an authorised and admitted request. A payload
of fewer than two bytes is discarded and takes no place. -/
def formAndExecute (q : Request) (s : State) : State :=
  match q.payload with
  | code :: tag :: ps =>
    match RequestCode.ofCode code with
    | none => answered q.source code tag (refuse s .unknownRequest [])
    | some c =>
      if c.paramBytes ps ≠ some ps.length then answered q.source code tag (refuse s .badLength [])
      else if s.requests.activation.isSome && !c.runsInFlight then answered q.source code tag (refuse s .busy [])
      else executeRequest c q.source code tag ps s
  | _ => s

/-- A MGMT_REQUEST taken (R155): authority, admission, then form and execution. -/
def handleRequest (q : Request) (s : State) : State :=
  if s.authorised q = false then s.raise .auth
  else if 4 ≤ s.requests.answers.length then s.raise .requestDropped
  else formAndExecute q s

end Sys2Proof.Machine
end

