-- ==== Sys2Proof/Machine/Power.lean ====
section
/-! DEFINITION. Warm restart and power-on reset (10.7, 10.8, R145), and the commands WARM_RESTART, WARM_RELEASED,
PWRON_ASSERTED and POWER_ON_RESET. -/

namespace Sys2Proof.Machine

/-! ## The Ring Interface at a restart (R145) -/

/-- The characters of a telegram in reception are discarded, and reception resumes after the next gap (R129). -/
def Reception.discarded (r : Reception) : Reception :=
  match r with
  | .ready => .ready
  | .collecting _ _ _ => .skipping
  | .skipping => .skipping

/-- A telegram in SENDING is cut and the transmitter passes through GAP to IDLE (R138). -/
def Transmitter.cut (x : Transmitter) : Transmitter :=
  match x with
  | .idle => .idle
  | .sending _ _ => .gap
  | .gap => .gap

/-- The Ring Interface after a warm restart (R145, R129): the line condition and the own address are kept. -/
def RingInterface.restarted (r : RingInterface) : RingInterface :=
  { r with
    activity := .receiving
    reception := r.reception.discarded
    forward := []
    ownSeq := 1
    watch := []
    missRun := 0
    loop := if r.condition = .lineDown then .broken else .intact
    tx := r.tx.cut }

/-! ## Warm restart -/

/-- The Table Store after a warm restart (R174, R181, R183): tables, version and flag kept, the load aborted, the mode
and the start-up limit timer by the flag. -/
def State.restartedTables (s : State) : TableStore :=
  { s.tables with
    load := none
    mode := if s.tables.activated then .startUp else .config
    startLimit := if s.tables.activated then some (s.startTimer 10000) else none }

/-- A warm restart, one action (R182, Table 10-6). -/
def warmRestart (s : State) : State :=
  let t :=
    { s with
      ring := s.ring.restarted
      requests := { answers := [], activation := none, restartPending := false }
      tables := s.restartedTables
      attention := attentionAfterReset .warmRestart }
  let status : PointStatus := if s.tables.activated then .starting else .inactive
  let cause : SectionCause := if s.tables.activated then .start else .config
  restartCycle (startSections cause (emptyReports (peerReset (resetPoints status t))))

/-- The WARM line goes to asserted: a warm restart while PWRON is released and the line was released; held asserted it
gives no further one (R182). While PWRON is asserted the line has no effect (R184). -/
def warmAsserted (s : State) : State :=
  if s.warm then s
  else if s.pwron then { s with warm := true }
  else arbitrate (warmRestart { s with warm := true })

/-- WARM_RESTART (R182). -/
def execWarmRestart (s : State) : Host.Outcome State Fault Refusal := .next (warmAsserted s)

/-- WARM_RELEASED (R182): the line is released, so that its next assertion gives a further warm restart. -/
def execWarmReleased (s : State) : Host.Outcome State Fault Refusal := .next { s with warm := false }

/-! ## Power-on reset -/

/-- PWRON asserted (R184): every latch is clear, RING OUT is at mark, and a load, an activation, a restart pending, a
transmission or a reception in progress ends without its effect or its answer (log 9). -/
def assertPwron (s : State) : State :=
  { s with
    pwron := true
    ring := { s.ring with tx := .idle, reception := s.ring.reception.discarded }
    requests :=
      { answers := s.requests.answers.erase .reserved
        activation := none
        restartPending := false }
    tables := { s.tables with load := none }
    attention := { s.attention with latches := 0 } }

/-- PWRON_ASSERTED (R184, R165). -/
def execPwronAsserted (s : State) : Host.Outcome State Fault Refusal := .next (assertPwron s)

/-- The release of PWRON (R184): everything as after a power-on reset, the own address sampled from the pins (R136).
The level of the WARM line and the traffic on RING IN are the outside's and stay (log 7, log 8), and so do the model's own fields. It acts without an assertion before it too (log 10). -/
def powerOn (pins : Byte) (s : State) : State :=
  { State.reset with
    warm := s.warm
    ring := { State.reset.ring with ownAddress := pins, reception := s.ring.reception.discarded }
    freeCount := s.freeCount
    pending := s.pending }

/-- POWER_ON_RESET (R184). -/
def execPowerOnReset (pins : Byte) (s : State) : Host.Outcome State Fault Refusal := .next (powerOn pins s)

end Sys2Proof.Machine
end

