-- ==== Sys2Proof/Machine/Ring.lean ====
section
/-! DEFINITION. The Ring Interface and the Acceptance Unit (chapter 7) and the partner's reports (5.1 to 5.3), and the
commands START_BIT, LINE_DOWN, LINE_UP, RING_IN_FREE, COMPLETES_RECEPTION, TRANSMISSION_END, TRANSMITTER_GAP_END,
WATCH_RECORD_EXPIRY and PEER_SILENCE_EXPIRY. -/

namespace Sys2Proof.Machine

/-! ## Loop supervision (R142..R144) -/

/-- The loop state becomes BROKEN; LOOP_BROKEN is set on the change from INTACT (R144). -/
def breakLoop (s : State) : State :=
  if s.ring.loop = .intact then
    { s with ring := { s.ring with loop := .broken } }.raise .loopBroken
  else s

/-- A miss: the miss run rises, held at 15, and a run that has reached the loop miss limit breaks the loop (R144). A run that
stood above a limit newly loaded (R170) counts as having reached it (DESIGN CHOICE, log 32). -/
def countMiss (s : State) : State :=
  let t := { s with ring := { s.ring with missRun := min 15 (s.ring.missRun + 1) } }
  if t.loopMissLimit ≤ t.ring.missRun then breakLoop t else t

/-- The oldest watch record removed and counted as a miss (R142, R143). -/
def missOldest (s : State) : State := countMiss { s with ring := { s.ring with watch := s.ring.watch.tail } }

/-- An own telegram's record joins the tail of the watch list; a full list loses its oldest record as a miss (R142). When the
own sequence has gone round to a number that a record on the list still holds, the new record joins all the same (DESIGN
CHOICE, log 31). -/
def watchAdd (seq : Byte) (s : State) : State :=
  let t := if 8 ≤ s.ring.watch.length then missOldest s else s
  { t with ring := { t.ring with watch := t.ring.watch ++ [{ seq := seq, sendTime := s.now }] } }

/-- A stripped own telegram: a record of its sequence is removed, the miss run becomes 0 and the loop INTACT; without
one it is discarded (R143, R144). Of two records of its sequence the older is removed (DESIGN CHOICE, log 31). -/
def stripped (t : Telegram) (s : State) : State :=
  if s.ring.watch.any fun w => w.seq == t.seq then
    { s with
      ring :=
        { s.ring with
          watch := s.ring.watch.eraseP fun w => w.seq == t.seq
          missRun := 0
          loop := .intact } }
  else s

/-! ## The forward buffer (R137) -/

/-- A telegram offered to the forward buffer: placed while it holds fewer than 2, else FORWARD_OVERRUN (R137). -/
def forwardTelegram (t : Telegram) (s : State) : State :=
  if s.ring.forward.length < 2 then { s with ring := { s.ring with forward := s.ring.forward ++ [t] } }
  else s.raise .forwardOverrun

/-! ## The partner's reports (R95..R102, R111) -/

/-- Every departure of the peer state from PRESENT clears the entries and stops the compare timers (R98, R99, R108). -/
def leavePeer (st : PeerState) (s : State) : State :=
  { s with
    peer :=
      { s.peer with
        state := st
        entries := Vector.replicate 32 none
        compare := Vector.replicate 32 none } }

/-- The version check (R98, Table 5-2). -/
def checkVersion (version : BitVec 16) (s : State) : State :=
  if version = s.tables.version then { s with peer := { s.peer with state := .present } }
  else if s.peer.state = .mismatched then s
  else (leavePeer .mismatched s).raise .peerConfig

/-- One entry of a report taken (R102, R105, R111): the peer entry is written and evaluated, and when the peer condition
holds the notice is taken. An entry for an unused section is skipped. -/
def takeEntry (s : State) (e : ReportEntry) : State :=
  if s.sectionConfigured e.index then
    let t :=
      evaluate e.index
        (s.setPeerEntry e.index
          (some { state := e.state, count := e.count, serial := e.serial, arrival := s.now }))
    if t.peerCondition e.index then peerNotice e.index t else t
  else s

/-- The peer silence timer at the full peer silence limit (R99); without a record no report is snooped. -/
def restartSilence (s : State) : State :=
  match s.tables.params with
  | none => s
  | some r => { s with peer := { s.peer with silence := some (s.startTimer (r.silenceLimit * 100)) } }

/-- A snooped report taken as one action (R96). -/
def takeReport (r : Report) (s : State) : State :=
  let t := checkVersion r.version (restartSilence s)
  if t.peer.state = .present then r.entries.foldl takeEntry t else t

/-- The snoop of a SECTION_REPORT telegram (R95): from the peer address, which is neither 0 nor the own address, in
START-UP or SERVICE, well formed. -/
def snoopReport (t : Telegram) (s : State) : State :=
  if s.peerAddress = 0 ∨ t.source ≠ s.peerAddress ∨ t.source = s.ring.ownAddress ∨ s.tables.mode = .config then s
  else
    match reportOf t.payload with
    | none => s
    | some r => takeReport r s

/-- The snoops of a telegram that is not stripped (R135). -/
def snoop (t : Telegram) (s : State) : State :=
  if t.kind = kindHeadState then snoopHead t s
  else if t.kind = kindSectionReport then snoopReport t s
  else s

/-! ## Acceptance (R134) -/

/-- The fate of a telegram on the ring (Table 7-2). -/
inductive Fate where
  | strip
  | consume
  | consumeAndForward
  | forward
  deriving DecidableEq, Repr

/-- The tests of Table 7-2 in order; an evaluator with no own address strips and consumes nothing (R136). -/
def State.fate (s : State) (t : Telegram) : Fate :=
  if s.hasOwnAddress ∧ t.source = s.ring.ownAddress then .strip
  else if s.hasOwnAddress ∧ t.destination = s.ring.ownAddress then .consume
  else if s.pairAddress ≠ 0 ∧ t.destination = s.pairAddress then .consumeAndForward
  else .forward

/-- A consumed telegram of kind MGMT_REQUEST goes to the Request Executor; any other is discarded (R134). -/
def consume (t : Telegram) (s : State) : State :=
  if t.kind = kindMgmtRequest then handleRequest { source := t.source, payload := t.payload } s else s

/-- A telegram that is consumed and forwarded. The two are made together (R135) and meet only at the latches, when a
MGMT_REQUEST finds the forward buffer full; then a free value says which is taken first (R166, log 5). -/
def consumeAndForward (t : Telegram) (s : State) : State :=
  if s.ring.forward.length < 2 ∨ t.kind ≠ kindMgmtRequest then consume t (forwardTelegram t s)
  else
    let u := { s with freeCount := s.freeCount + 1 }
    if Config.freeChoice s.freeCount = 0 then consume t (forwardTelegram t u) else forwardTelegram t (consume t u)

/-- The Acceptance Unit (R134, R135): a stripped telegram goes to the watch list alone; any other is snooped, and
consumed, forwarded or both. -/
def accept (t : Telegram) (s : State) : State :=
  match s.fate t with
  | .strip => stripped t s
  | .consume => consume t (snoop t s)
  | .consumeAndForward => consumeAndForward t (snoop t s)
  | .forward => forwardTelegram t (snoop t s)

/-! ## Reception (R128..R133) -/

/-- One character joins a telegram: no byte is stored after the 36th (R131), a bad stop bit marks it bad (R128). -/
def collect (bytes : List Byte) (badStop tooLong : Bool) (data : Byte) (goodStop : Bool) : Reception :=
  if bytes.length < 36 then .collecting (bytes ++ [data]) (badStop || !goodStop) tooLong
  else .collecting bytes (badStop || !goodStop) true

/-- The reception after a character: it begins a telegram after a gap, joins the telegram in reception, or belongs to
none (R129). -/
def Reception.take (r : Reception) (data : Byte) (goodStop : Bool) : Reception :=
  match r with
  | .ready => collect [] false false data goodStop
  | .collecting bytes badStop tooLong => collect bytes badStop tooLong data goodStop
  | .skipping => .skipping

/-- A start bit on a line that is up: RECEIVING, and its character is taken (R129). -/
def startBit (data : Byte) (goodStop : Bool) (s : State) : State :=
  { s with ring := { s.ring with activity := .receiving, reception := s.ring.reception.take data goodStop } }

/-- The first good start bit after a break: LINE_UP, RECEIVING, and its character begins a new telegram (R130). -/
def lineUp (data : Byte) (goodStop : Bool) (s : State) : State :=
  { s with
    ring :=
      { s.ring with
        condition := .lineUp
        activity := .receiving
        reception := Reception.ready.take data goodStop } }

/-- START_BIT (R128, R129). In LINE_DOWN a start bit is the return to LINE_UP (R130, log 15). While PWRON is asserted
nothing is received, but the character belongs to traffic that a later release of PWRON finds under way (log 8). -/
def execStartBit (data : Byte) (goodStop : Bool) (s : State) : Host.Outcome State Fault Refusal :=
  if s.pwron then .next { s with ring := { s.ring with reception := .skipping } }
  else if s.ring.condition = .lineDown then .next (lineUp data goodStop s)
  else .next (startBit data goodStop s)

/-- LINE_UP (R130): it happens in LINE_DOWN. -/
def execLineUp (data : Byte) (goodStop : Bool) (s : State) : Host.Outcome State Fault Refusal :=
  powered s (onlyIf (decide (s.ring.condition = .lineDown)) s (lineUp data goodStop s))

/-- The telegram in reception is closed as bad (R130, R131). -/
def closeBad (s : State) : State :=
  match s.ring.reception with
  | .collecting _ _ _ => { s with ring := { s.ring with reception := .ready } }.raise .badTelegram
  | _ => { s with ring := { s.ring with reception := .ready } }

/-- Entry into LINE_DOWN (R130): the telegram in reception is bad, the loop is BROKEN, the line counts as FREE. -/
def lineDown (s : State) : State :=
  let t := breakLoop (closeBad s)
  { t with ring := { t.ring with condition := .lineDown, activity := .free } }

/-- LINE_DOWN (R130): it happens in LINE_UP. -/
def execLineDown (s : State) : Host.Outcome State Fault Refusal :=
  powered s (onlyIf (decide (s.ring.condition = .lineUp)) s (arbitrate (lineDown s)))

/-- The line monitor may become FREE: it is up, and no telegram is in reception (it completed 4 character times
before, R129). -/
def State.mayBeFree (s : State) : Bool :=
  decide (s.ring.condition = .lineUp)
    && match s.ring.reception with
      | .collecting _ _ _ => false
      | _ => true

/-- 6 quiet character times: FREE, and a gap has passed (R129). -/
def ringFree (s : State) : State :=
  { s with ring := { s.ring with activity := .free, reception := .ready } }

/-- RING_IN_FREE (R129, R140). -/
def execRingInFree (s : State) : Host.Outcome State Fault Refusal :=
  powered s (onlyIf s.mayBeFree s (arbitrate (ringFree s)))

/-- A telegram that has completed reception: checked, its hop budget taken, and accepted (R129, R131, R133, R134). -/
def received (bytes : List Byte) (badStop tooLong : Bool) (s : State) : State :=
  match receiveChecks bytes badStop tooLong with
  | none => s.raise .badTelegram
  | some t =>
    match takeHop t with
    | none => s.raise .hopExpired
    | some t => accept t s

/-- 2 quiet character times: a telegram in reception completes; a gap has passed (R129). -/
def completeReception (s : State) : State :=
  let t := { s with ring := { s.ring with reception := .ready } }
  match s.ring.reception with
  | .ready => s
  | .skipping => t
  | .collecting bytes badStop tooLong => arbitrate (received bytes badStop tooLong t)

/-- COMPLETES_RECEPTION (R129). While PWRON is asserted it is a gap in traffic that nothing receives (log 8). -/
def execCompletesReception (s : State) : Host.Outcome State Fault Refusal :=
  if s.pwron then .next { s with ring := { s.ring with reception := .ready } } else .next (completeReception s)

/-! ## TRANSMISSION_END and TRANSMITTER_GAP_END (R138) -/

/-- The transmission end of a telegram: GAP; a forwarded telegram leaves the buffer, an own one joins the watch list,
and the answer a restart pending is marked against begins the warm restart (R138, R142, R164). -/
def transmissionEnd (t : Telegram) (cls : TxClass) (s : State) : State :=
  let u := { s with ring := { s.ring with tx := .gap } }
  match cls with
  | .forwarded => { u with ring := { u.ring with forward := u.ring.forward.tail } }
  | .report => watchAdd t.seq u
  | .answer false => watchAdd t.seq u
  | .answer true => warmRestart (watchAdd t.seq u)

/-- The end of SENDING, when a telegram is in SENDING. -/
def sendingEnded (s : State) : State :=
  match s.ring.tx with
  | .sending t cls => transmissionEnd t cls s
  | _ => s

/-- TRANSMISSION_END (R138). -/
def execTransmissionEnd (s : State) : Host.Outcome State Fault Refusal := powered s (sendingEnded s)

/-- TRANSMITTER_GAP_END (R138, R139): the transmitter becomes IDLE and the arbiter may grant. -/
def execTransmitterGapEnd (s : State) : Host.Outcome State Fault Refusal :=
  powered s
    (onlyIf (decide (s.ring.tx = .gap)) s (arbitrate { s with ring := { s.ring with tx := .idle } }))

/-! ## WATCH_RECORD_EXPIRY (R143) -/

/-- The oldest watch record is older than the round-trip limit (R143, log 12). -/
def State.watchDue (s : State) : Bool :=
  match s.ring.watch with
  | [] => false
  | w :: _ => decide (s.roundTripLimit < (s.now - w.sendTime).toNat)

/-- WATCH_RECORD_EXPIRY (R143, R144). -/
def execWatchRecordExpiry (s : State) : Host.Outcome State Fault Refusal :=
  powered s (onlyIf s.watchDue s (missOldest s))

/-! ## PEER_SILENCE_EXPIRY (R99) -/

/-- The peer silence timer has run the full limit (R99). -/
def State.silenceDue (s : State) : Bool := timerDue s.peer.silence s.now

/-- The one entry into ABSENT: entries cleared, timers stopped, PEER_LOST (R99). -/
def peerLost (s : State) : State := (peerReset s).raise .peerLost

/-- PEER_SILENCE_EXPIRY (R99). -/
def execPeerSilenceExpiry (s : State) : Host.Outcome State Fault Refusal :=
  powered s (onlyIf s.silenceDue s (peerLost s))

end Sys2Proof.Machine
end

