-- ==== Sys2Proof/Machine/Idle.lean ====
section
/-! DEFINITION. What the part does while no command waits: a timer that is due expires, else a millisecond passes
(00_scope.md 3.3; log 1, log 4). -/

namespace Sys2Proof.Machine

/-- An activation ends at most 40 ms after it began (R177, log 17). -/
def State.activationDue (s : State) : Bool :=
  match s.requests.activation with
  | none => false
  | some a => decide (40 ≤ (s.now - a.began).toNat)

/-- A command when its occasion exists. -/
def whenDue (due : Bool) (c : Instr) : List Instr := if due then [c] else []

/-- The expiries that are due at this moment, each as the command that takes it. -/
def State.dueCommands (s : State) : List Instr :=
  ((List.finRange 48).filter s.supervisionDue).map (fun p => Instr.supervisionExpiry p.val)
    ++ whenDue s.startLimitDue .startUpLimitExpiry
    ++ ((List.finRange 32).filter s.settleDue).map (fun i => Instr.settleTimerExpiry i.val)
    ++ whenDue s.silenceDue .peerSilenceExpiry
    ++ ((List.finRange 32).filter s.compareDue).map (fun i => Instr.compareTimerExpiry i.val)
    ++ whenDue s.cycleDue .cycleStep
    ++ whenDue s.holdDue .holdTimerExpiry
    ++ whenDue s.watchDue .watchRecordExpiry
    ++ whenDue s.loadIdleDue .loadIdleTimeout
    ++ whenDue s.activationDue .activationEnd

/-- One millisecond of evaluator time passes, modulo 2^32 (00_scope.md 3.3). -/
def tick (s : State) : State := { s with now := s.now + 1 }

/-- The idle part (log 1): nothing happens while PWRON is asserted (R184); a due expiry is put in the queue, a free value
choosing among several ("either may be taken first", log 4); with nothing due a millisecond passes. -/
def idle (s : State) : State :=
  if s.pwron then s
  else
    match s.dueCommands with
    | [] => tick s
    | [c] => { s with pending := [c] }
    | c :: d :: rest =>
      { s with
        pending := [(c :: d :: rest).getD (Config.freeChoice s.freeCount % (rest.length + 2)) c]
        freeCount := s.freeCount + 1 }

end Sys2Proof.Machine
end

