-- ==== Sys2Proof/Machine/Dispatch.lean ====
section
/-! DEFINITION. exec: one arm per command of spec/opcode_table.json, each one call of its meaning. -/

namespace Sys2Proof.Machine

/-- What a command does to everything but the queue of commands. -/
def exec (i : Instr) (s : State) : Host.Outcome State Fault Refusal :=
  match i with
  | .powerOnReset pins => Sys2Proof.Machine.execPowerOnReset pins s
  | .warmRestart => Sys2Proof.Machine.execWarmRestart s
  | .lineDown => Sys2Proof.Machine.execLineDown s
  | .lineUp data goodStop => Sys2Proof.Machine.execLineUp data goodStop s
  | .ringInFree => Sys2Proof.Machine.execRingInFree s
  | .completesReception => Sys2Proof.Machine.execCompletesReception s
  | .recordTake => Sys2Proof.Machine.execRecordTake s
  | .recordApply => Sys2Proof.Machine.execRecordApply s
  | .skipOrSuspectRequestTaken => Sys2Proof.Machine.execSkipOrSuspectRequestTaken s
  | .supervisionExpiry point => Sys2Proof.Machine.execSupervisionExpiry point s
  | .startUpLimitExpiry => Sys2Proof.Machine.execStartUpLimitExpiry s
  | .settleTimerExpiry index => Sys2Proof.Machine.execSettleTimerExpiry index s
  | .peerSilenceExpiry => Sys2Proof.Machine.execPeerSilenceExpiry s
  | .compareTimerExpiry index => Sys2Proof.Machine.execCompareTimerExpiry index s
  | .cycleStep => Sys2Proof.Machine.execCycleStep s
  | .holdTimerExpiry => Sys2Proof.Machine.execHoldTimerExpiry s
  | .transmissionEnd => Sys2Proof.Machine.execTransmissionEnd s
  | .transmitterGapEnd => Sys2Proof.Machine.execTransmitterGapEnd s
  | .watchRecordExpiry => Sys2Proof.Machine.execWatchRecordExpiry s
  | .loadIdleTimeout => Sys2Proof.Machine.execLoadIdleTimeout s
  | .activationEnd => Sys2Proof.Machine.execActivationEnd s
  | .pwronAsserted => Sys2Proof.Machine.execPwronAsserted s
  | .startBit data goodStop => Sys2Proof.Machine.execStartBit data goodStop s
  | .warmReleased => Sys2Proof.Machine.execWarmReleased s

end Sys2Proof.Machine
end

