-- ==== Sys2Proof/Machine/Step.lean ====
section
/-! DEFINITION. One step: the command at the front of the queue, or the idle part. -/

namespace Sys2Proof.Machine

/-- One step of the part: it takes the command at the front of the queue and runs it with the rest waiting; with no
command waiting it does what the idle part does (log 1). -/
def step (s : State) : Host.Outcome State Fault Refusal :=
  match s.pending with
  | c :: rest => exec c { s with pending := rest }
  | [] => .next (idle s)

/-- The command a word spells by the table's bits put at the front of the queue; the state unchanged where the word
spells none, which is every word (log 22). -/
def State.withFetchWord (s : State) (nbits w : Nat) : State :=
  match decodeTableWord nbits w with
  | none => s
  | some c => { s with pending := c :: s.pending }

end Sys2Proof.Machine
end

