-- ==== Sys2Proof/Safety.lean ====
section
/-! DEFINITION. What counts as a sound state of the part (the invariants every step keeps), and the effects that many
commands share, said in the terms of the rules: what a disturbance, a fault entry, a completed pass and a report to the
neighbours leave behind. The statements of Certificates/Slice0/Obligations.lean are written in these terms. -/

namespace Sys2Proof.Machine

/-! ## Table entries within their ranges -/

/-- The ranges of Table 1-1 (R1). -/
structure PointEntry.InRange (e : PointEntry) : Prop where
  headAddress : 1 ≤ e.headAddress.toNat ∧ e.headAddress.toNat ≤ 254
  spacing : 40 ≤ e.spacing ∧ e.spacing ≤ 400
  ceiling : 50 ≤ e.ceiling ∧ e.ceiling ≤ 3000
  window : 1 ≤ e.window ∧ e.window ≤ 255
  recoveryCount : 2 ≤ e.recoveryCount ∧ e.recoveryCount ≤ 63
  suspectLimit : 1 ≤ e.suspectLimit ∧ e.suspectLimit ≤ 15

/-- The ranges of Table 3-1 (R44). -/
structure SectionEntry.InRange (e : SectionEntry) : Prop where
  boundaries : 1 ≤ e.boundaries.length ∧ e.boundaries.length ≤ 6
  settleTime : 1 ≤ e.settleTime ∧ e.settleTime ≤ 255

/-- The ranges of Table 10-1 (R170). -/
structure ParamRecord.InRange (r : ParamRecord) : Prop where
  peerAddress : r.peerAddress.toNat ≤ 254
  pairAddress : r.pairAddress.toNat ≤ 254
  interlockingAddress : 1 ≤ r.interlockingAddress.toNat ∧ r.interlockingAddress.toNat ≤ 254
  maintenanceAddress : 1 ≤ r.maintenanceAddress.toNat ∧ r.maintenanceAddress.toNat ≤ 254
  reportTrigger : 1 ≤ r.reportTrigger ∧ r.reportTrigger ≤ 4
  reportHold : 1 ≤ r.reportHold ∧ r.reportHold ≤ 15
  cyclePeriod : 1 ≤ r.cyclePeriod ∧ r.cyclePeriod ≤ 255
  silenceLimit : 1 ≤ r.silenceLimit ∧ r.silenceLimit ≤ 255
  compareWindow : 1 ≤ r.compareWindow ∧ r.compareWindow ≤ 255
  roundTripLimit : 1 ≤ r.roundTripLimit ∧ r.roundTripLimit ≤ 255
  loopMissLimit : 1 ≤ r.loopMissLimit ∧ r.loopMissLimit ≤ 15
  hopBudget : 8 ≤ r.hopBudget.toNat

/-- A load within Table 10-3: as many entries at most as its count, its count in the range of its table, and every
staged entry within the ranges of its fields (R172, R173). -/
def Load.InRange (l : Load) : Prop :=
  l.staged.size ≤ l.count
    ∧ match l.staged with
      | .points es => 1 ≤ l.count ∧ l.count ≤ 48 ∧ ∀ e ∈ es, e.InRange
      | .sections es => 1 ≤ l.count ∧ l.count ≤ 32 ∧ ∀ e ∈ es, e.InRange
      | .parameters es => l.count = 1 ∧ ∀ e ∈ es, e.InRange

/-- The held tables and an open load hold what Tables 1-1, 3-1, 10-1 and 10-3 allow (R1, R44, R170, R173, R175). -/
structure TablesSound (s : State) : Prop where
  points : s.tables.points.length ≤ 48 ∧ ∀ e ∈ s.tables.points, e.InRange
  sections : s.tables.sections.length ≤ 32 ∧ ∀ e ∈ s.tables.sections, e.InRange
  params : ∀ r, s.tables.params = some r → r.InRange
  load : ∀ l, s.tables.load = some l → l.InRange

/-! ## Capacities -/

/-- Every queue, buffer, list and counter within the size the spec gives it. -/
structure BuffersSound (s : State) : Prop where
  /-- R131: at least one byte and at most 36 are kept of a telegram in reception. -/
  reception : ∀ bytes badStop tooLong, s.ring.reception = .collecting bytes badStop tooLong →
    1 ≤ bytes.length ∧ bytes.length ≤ 36
  /-- R137. -/
  forward : s.ring.forward.length ≤ 2
  /-- R141: 1..255. -/
  ownSeq : s.ring.ownSeq ≠ 0
  /-- R142. -/
  watch : s.ring.watch.length ≤ 8
  /-- R144. -/
  missRun : s.ring.missRun ≤ 15
  /-- R6. -/
  events : s.points.queue.length ≤ 64
  /-- R114: configured sections only, each at most once. -/
  reports : s.reports.queue.Nodup ∧ ∀ i ∈ s.reports.queue, s.sectionConfigured i = true
  /-- R158. -/
  answers : s.requests.answers.length ≤ 4
  /-- R159: an activation in flight holds a reservation. -/
  reservation : s.requests.activation ≠ none → .reserved ∈ s.requests.answers

/-! ## Points -/

/-- What holds of every point record (R2, R9, R15, R18, R20, R21, R38). -/
structure PointSound (s : State) (p : PointIndex) : Prop where
  /-- R2: exactly the unused indices are UNUSED. -/
  configured : s.pointConfigured p = true ↔ (s.point p).status ≠ .unused
  /-- R18, R21: a point that is UNUSED, INACTIVE or STARTING shows initial values. -/
  initial : (s.point p).status = .unused ∨ (s.point p).status = .inactive ∨ (s.point p).status = .starting →
    s.point p = PointRecord.initial (s.point p).status
  /-- R20: the phase is IDLE whenever the point is not HEALTHY. -/
  idle : (s.point p).status ≠ .healthy → (s.point p).phase = .idle
  /-- R20: a lead is held exactly while the phase is not IDLE. -/
  lead : (s.point p).lead ≠ none ↔ (s.point p).phase ≠ .idle
  /-- R18: no fault cause and no recovery run unless FAULTED. -/
  cause : (s.point p).cause ≠ .none ↔ (s.point p).status = .faulted
  /-- R18. -/
  run : (s.point p).status ≠ .faulted → (s.point p).run = 0
  /-- R15: a HEALTHY or FAULTED point is supervised. -/
  supervised : (s.point p).status = .healthy ∨ (s.point p).status = .faulted → (s.point p).supervision ≠ none
  /-- R9, R10, R11: a HEALTHY point has a sequence reference. -/
  reference : (s.point p).status = .healthy → (s.point p).seqRef ≠ none
  /-- R30. -/
  speed : (s.point p).lastSpeed ≤ 4000
  /-- R38: the suspect counter stays below the suspect limit. -/
  suspect : ∀ e, s.pointEntry p = some e → (s.point p).suspect < e.suspectLimit ∨ (s.point p).suspect = 0
  /-- R11: the recovery run stays below the recovery count. -/
  recovery : ∀ e, s.pointEntry p = some e → (s.point p).run < e.recoveryCount ∨ (s.point p).run = 0

/-- Every point record is sound, and the Discriminator requests no fault but SKIP and SUSPECT (R24, R40). -/
structure PointsSound (s : State) : Prop where
  records : ∀ p, PointSound s p
  request : ∀ q, s.points.request = some q → q.cause = .skip ∨ q.cause = .suspect

/-! ## Sections -/

/-- What holds of every section record (R50, R59, R66, R71, R73). -/
structure SectionSound (s : State) (i : SectionIndex) : Prop where
  /-- R50. -/
  count : (s.sect i).count ≤ 1023
  /-- R50: a SWEEP_WAIT section holds count 0. -/
  sweepWait : (s.sect i).state = .sweepWait → (s.sect i).count = 0
  /-- R71, R73: the cause is NONE in every state but DISTURBED. -/
  cause : (s.sect i).cause = .none ↔ (s.sect i).state ≠ .disturbed
  /-- R59: the settle timer runs exactly in SETTLING. -/
  settle : (s.sect i).settle ≠ none ↔ (s.sect i).state = .settling
  /-- R48: an unused section stays DISTURBED. -/
  configured : (s.sect i).state ≠ .disturbed → s.sectionConfigured i = true

/-- The side map agrees with the boundary lists in both directions (R46). -/
def SideMapSound (s : State) : Prop :=
  ∀ p i,
    ((s.sides p).sideA = some i ↔ { point := p, inside := .a } ∈ s.boundaries i)
      ∧ ((s.sides p).sideB = some i ↔ { point := p, inside := .b } ∈ s.boundaries i)
      ∧ ¬((s.sides p).sideA = some i ∧ (s.sides p).sideB = some i)

/-- The evaluator judges no section clear without proof (R46, R57, R75, R80, R171): a section counts only in SERVICE and
with every boundary point HEALTHY, and one that is CLEAR, or about to become so, holds no axle and has no wheel over a
boundary. -/
structure TrackSound (s : State) : Prop where
  sections : ∀ i, SectionSound s i
  /-- R171: the activated flag is set exactly outside CONFIG. -/
  activated : s.tables.activated = true ↔ s.tables.mode ≠ .config
  /-- R172, R177: the tables are loaded, and activated, in CONFIG alone, never both at once. -/
  load : s.tables.load ≠ none → s.tables.mode = .config ∧ s.requests.activation = none
  activation : s.requests.activation ≠ none → s.tables.mode = .config
  /-- R46. -/
  sideMap : s.tables.mode ≠ .config → SideMapSound s
  /-- R49, R75: outside SERVICE every section is DISTURBED. -/
  service : ∀ i, (s.sect i).state ≠ .disturbed → s.tables.mode = .service
  /-- R65, R80: every boundary point of a counting section is HEALTHY. -/
  healthy : ∀ i, (s.sect i).state ≠ .disturbed →
    ∀ b ∈ s.boundaries i, (s.point b.point).status = .healthy
  /-- R57: SETTLING, AWAIT_PEER and CLEAR hold count 0 with no wheel over a boundary. -/
  clear : ∀ i, (s.sect i).state = .clear ∨ (s.sect i).state = .awaitPeer ∨ (s.sect i).state = .settling →
    (s.sect i).count = 0 ∧ ∀ b ∈ s.boundaries i, (s.point b.point).phase = .idle

/-! ## The peer -/

/-- What holds of the Peer Comparator (R95, R97..R99, R104, R105, R108). -/
structure PeerSound (s : State) : Prop where
  /-- R97: the peer is ABSENT in CONFIG. -/
  config : s.tables.mode = .config → s.peer.state = .absent
  /-- R99: the silence timer runs exactly while the peer is PRESENT or MISMATCHED. -/
  silence : s.peer.silence ≠ none ↔ s.peer.state ≠ .absent
  /-- R95: a partner is heard only where a parameter record names it. -/
  named : s.peer.state ≠ .absent → s.tables.params ≠ none
  /-- R98, R99: entries are held only while the peer is PRESENT. -/
  entries : s.peer.state ≠ .present → ∀ i, s.peerEntry i = none
  /-- R105, R108: a compare timer runs only for a section the channels disagree about. -/
  compare : ∀ i, s.compareTimer i ≠ none → s.disagree i = true
  /-- R172, R177: the tables are loaded in CONFIG alone, with no activation in flight. -/
  load : s.tables.load ≠ none → s.tables.mode = .config ∧ s.requests.activation = none

/-! ## The arbiter -/

/-- Nothing that may be granted waits while the transmitter is IDLE (R139, R140). -/
def ArbiterSettled (s : State) : Prop :=
  s.pwron = false → s.ring.tx = .idle →
    s.ring.forward = []
      ∧ (s.mayInsert = true → (∀ a, .formed a ∉ s.requests.answers) ∧ s.eligible = false)

/-! ## Telling the neighbours (R69) -/

/-- The hold timer at the full report hold, while reporting is active (R117, R120). -/
def State.freshHold (s : State) : HoldTimer :=
  match s.tables.params with
  | none => s.reports.hold
  | some r => if s.tables.sections = [] then s.reports.hold else .running { start := s.now, length := r.reportHold }

/-- The sections of a list that join the report queue: configured and not queued yet (R114). -/
def State.newcomers (s : State) (l : List SectionIndex) : List SectionIndex :=
  l.filter fun i => s.sectionConfigured i && !s.reports.queue.contains i

/-- The sections of `l` are queued for report in this order, and nothing else happens at the Report Scheduler: those
already queued keep their places, the others join the tail, and an empty queue that is joined starts the hold timer
(R114, R120). -/
structure Queues (l : List SectionIndex) (s t : State) : Prop where
  queue : t.reports.queue = s.reports.queue ++ s.newcomers l
  hold : t.reports.hold = if s.reports.queue = [] ∧ s.newcomers l ≠ [] then s.freshHold else s.reports.hold
  pointer : t.reports.cyclePointer = s.reports.cyclePointer
  timer : t.reports.cycleTimer = s.reports.cycleTimer

/-- The compare timer at the full compare window (R104). -/
def State.freshCompare (s : State) : Option Timer :=
  s.tables.params.map fun r => { start := s.now, length := r.compareWindow * 10 }

/-- The sections of `l` are evaluated, and nothing else happens at the Peer Comparator (Table 5-3): disagreement starts
a stopped timer and keeps a running one, agreement leaves it stopped. -/
structure Evaluates (l : List SectionIndex) (s t : State) : Prop where
  state : t.peer.state = s.peer.state
  silence : t.peer.silence = s.peer.silence
  entries : t.peer.entries = s.peer.entries
  compare : ∀ i, t.compareTimer i =
    if i ∈ l ∧ s.tables.params ≠ none then
      if t.disagree i then (s.compareTimer i).or s.freshCompare else none
    else s.compareTimer i

/-- The neighbours are told of a change of the sections of `l`, in this order and once each (R69). -/
structure Told (l : List SectionIndex) (s t : State) : Prop where
  queues : Queues l s t
  evaluates : Evaluates l s t

/-- The sections of `l` whose state or count differs. -/
def changed (l : List SectionIndex) (s t : State) : List SectionIndex :=
  l.filter fun i => decide ((t.sect i).state ≠ (s.sect i).state) || decide ((t.sect i).count ≠ (s.sect i).count)

/-- SECTION_DISTURBED when a section of `l` has entered DISTURBED (R70). -/
def entryLatch (l : List SectionIndex) (s t : State) : BitVec 13 :=
  if l.any fun i => decide ((s.sect i).state ≠ .disturbed) && decide ((t.sect i).state = .disturbed) then
    Latch.sectionDisturbed.mask
  else 0

/-! ## What events about a point and disturbances leave (R47, R65) -/

/-- The sections on the sides of a point, side A before side B (R47). -/
def State.sidesOf (s : State) (p : PointIndex) : List SectionIndex :=
  match (s.sides p).sideA, (s.sides p).sideB with
  | none, none => []
  | some a, none => [a]
  | none, some b => [b]
  | some a, some b => if a = b then [a] else [a, b]

/-- The record of a section that has entered DISTURBED (R65): the count is kept. -/
def SectionRecord.nowDisturbed (r : SectionRecord) (c : SectionCause) : SectionRecord :=
  { r with state := .disturbed, cause := c, serial := r.serial + 1, settle := none }

/-- The sections of `l` take a disturbance (R65), told to the neighbours: one already DISTURBED changes nothing. -/
structure Disturbs (c : SectionCause) (l : List SectionIndex) (s t : State) : Prop where
  records : ∀ i, t.sect i =
    if i ∈ l ∧ (s.sect i).state ≠ .disturbed then (s.sect i).nowDisturbed c else s.sect i
  sideMap : t.sections.sideMap = s.sections.sideMap
  told : Told (changed l s t) s t

/-- A point enters FAULTED (R13): its record, one notice to the sections on its sides, POINT_FAULT, and nothing else. -/
structure EntersFaulted (p : PointIndex) (c : FaultCause) (s t : State) : Prop where
  frame : t =
    { s with
      points := { s.points with records := t.points.records }
      sections := t.sections
      peer := t.peer
      reports := t.reports
      attention := { s.attention with latches := t.attention.latches } }
  record : ∀ q, t.point q =
    if q = p then
      { s.point p with
        status := .faulted
        cause := c
        run := 0
        seqRef := none
        supervision := (s.pointEntry p).map fun e => { start := s.now, length := e.window * 10 }
        phase := .idle
        lead := none }
    else s.point q
  notice : Disturbs .pointFault (s.sidesOf p) s t
  latches : t.attention.latches =
    s.attention.latches ||| entryLatch (s.sidesOf p) s t ||| Latch.pointFault.mask

/-! ## Occupancy and counts (R50..R64) -/

/-- A section with count `n` is occupied (R56). -/
def State.OccupiedWith (s : State) (n : Nat) (i : SectionIndex) : Prop :=
  0 < n ∨ ∃ b ∈ s.boundaries i, (s.point b.point).status = .healthy ∧ (s.point b.point).phase ≠ .idle

/-- The settle timer at the full settle time (R59). -/
def State.freshSettle (s : State) (i : SectionIndex) : Option Timer :=
  (s.sectionEntry i).map fun e => { start := s.now, length := e.settleTime * 100 }

/-- A section with count `n` has re-derived its occupancy against the points of `t` (Table 3-8, R56..R64). -/
structure Rederives (n : Nat) (i : SectionIndex) (s t : State) : Prop where
  held : (s.sect i).state = .disturbed ∨ (s.sect i).state = .sweepWait → t.sect i = { s.sect i with count := n }
  /-- R58, R64: occupied, the section stays. -/
  busy : (s.sect i).state = .occupied ∨ (s.sect i).state = .sweepRun → t.OccupiedWith n i →
    t.sect i = { s.sect i with count := n }
  /-- R58, R64: unoccupied, it settles. -/
  empties : (s.sect i).state = .occupied ∨ (s.sect i).state = .sweepRun → ¬t.OccupiedWith n i →
    t.sect i =
      { s.sect i with
        count := n, state := .settling, serial := (s.sect i).serial + 1, settle := s.freshSettle i }
  /-- R57, R62: occupied, it leaves CLEAR or AWAIT_PEER. -/
  approached : (s.sect i).state = .clear ∨ (s.sect i).state = .awaitPeer → t.OccupiedWith n i →
    t.sect i = { s.sect i with count := n, state := .occupied, serial := (s.sect i).serial + 1 }
  /-- R60: occupied, it leaves SETTLING and its timer stops. -/
  unsettled : (s.sect i).state = .settling → t.OccupiedWith n i →
    t.sect i = { s.sect i with count := n, state := .occupied, serial := (s.sect i).serial + 1, settle := none }
  quiet : (s.sect i).state = .clear ∨ (s.sect i).state = .awaitPeer ∨ (s.sect i).state = .settling →
    ¬t.OccupiedWith n i → t.sect i = { s.sect i with count := n }

/-- What a completed pass asks of a section (Table 3-3), by the inside side of its boundary. -/
def passChange (x : Side) (d : Direction) : CountChange :=
  match x, d with
  | .a, .up => .decrement
  | .a, .down => .increment
  | .b, .up => .increment
  | .b, .down => .decrement

/-- A section takes the count change of a completed pass (Table 3-7) and then re-derives its occupancy. -/
structure Passes (change : CountChange) (i : SectionIndex) (s t : State) : Prop where
  /-- R55. -/
  disturbed : (s.sect i).state = .disturbed → t.sect i = s.sect i
  /-- R54, the sweep clamp. -/
  clamp : (s.sect i).state = .sweepWait → change = .decrement → t.sect i = s.sect i
  /-- R51, R63. -/
  sweep : (s.sect i).state = .sweepWait → change = .increment → (s.sect i).count < 1023 →
    t.sect i =
      { s.sect i with
        count := (s.sect i).count + 1, state := .sweepRun, serial := (s.sect i).serial + 1 }
  /-- R52. -/
  overflow : (s.sect i).state ≠ .disturbed → change = .increment → 1023 ≤ (s.sect i).count →
    t.sect i = (s.sect i).nowDisturbed .overflow
  /-- R53. -/
  underflow : (s.sect i).state ≠ .disturbed → (s.sect i).state ≠ .sweepWait → change = .decrement →
    (s.sect i).count = 0 → t.sect i = (s.sect i).nowDisturbed .underflow
  /-- R51. -/
  increment : (s.sect i).state ≠ .disturbed → (s.sect i).state ≠ .sweepWait → change = .increment →
    (s.sect i).count < 1023 → Rederives ((s.sect i).count + 1) i s t
  /-- R51. -/
  decrement : (s.sect i).state ≠ .disturbed → (s.sect i).state ≠ .sweepWait → change = .decrement →
    0 < (s.sect i).count → Rederives ((s.sect i).count - 1) i s t

/-- Leaving IDLE and rollback to IDLE, acted on at the sections of `l` (R35): each re-derives its occupancy and is told
about when it changed. -/
structure Reoccupies (l : List SectionIndex) (s t : State) : Prop where
  named : ∀ i ∈ l, Rederives (s.sect i).count i s t
  others : ∀ i, i ∉ l → t.sect i = s.sect i
  sideMap : t.sections.sideMap = s.sections.sideMap
  told : Told (changed l s t) s t

/-- A completed pass acted on at the sections of the point (R47, R50, R51). -/
structure Counts (p : PointIndex) (d : Direction) (s t : State) : Prop where
  sideA : ∀ i, (s.sides p).sideA = some i → Passes (passChange .a d) i s t
  sideB : ∀ i, (s.sides p).sideB = some i → Passes (passChange .b d) i s t
  others : ∀ i, i ∉ s.sidesOf p → t.sect i = s.sect i
  sideMap : t.sections.sideMap = s.sections.sideMap
  told : Told (changed (s.sidesOf p) s t) s t

/-! ## Records (R7..R12, R22) -/

/-- The sensor levels (S1, S2) of a phase (Table 2-2). -/
def Phase.levels (x : Phase) : Bool × Bool :=
  match x with
  | .idle => (false, false)
  | .up1 => (true, false)
  | .up2 => (true, true)
  | .up3 => (false, true)
  | .dn1 => (false, true)
  | .dn2 => (true, true)
  | .dn3 => (true, false)

/-- The state once the record in processing has left it (R7). -/
def State.taken (s : State) : State := { s with points := { s.points with processing := none } }

/-- The record `r` is in processing for a HEALTHY point and steps its phase machine: its sequence follows the
reference and its health is 0 (R9, R12). -/
structure StepsOn (r : EventRecord) (s : State) : Prop where
  powered : s.pwron = false
  processing : s.points.processing = some r
  healthy : (s.point r.point).status = .healthy
  sequence : (s.point r.point).seqRef.map seqSuccessor = some r.seq
  health : r.health = { s1Fault := false, s2Fault := false, internalFault := false }

/-- START-UP ends when no configured point is left STARTING (R10, R181): `v` is the state after the point has left
STARTING and `t` the state the Table Store leaves. -/
def EndsStartUp (v t : State) : Prop :=
  if v.tables.mode = .startUp ∧ ∀ q, v.pointConfigured q = true → (v.point q).status ≠ .starting then
    t = { v with tables := { v.tables with mode := .service, startLimit := none } }
  else t = v

/-! ## The loop (R144) -/

/-- One more miss: the miss run, held at 15, and the loop state; a run above the loop miss limit counts as having reached it
(log 32). -/
structure Misses (watch : List WatchRecord) (s t : State) : Prop where
  frame : t =
    { s with
      ring := { s.ring with watch := watch, missRun := t.ring.missRun, loop := t.ring.loop }
      attention := { s.attention with latches := t.attention.latches } }
  run : t.ring.missRun = min 15 (s.ring.missRun + 1)
  loop : t.ring.loop = if s.loopMissLimit ≤ t.ring.missRun then .broken else s.ring.loop
  latches : t.attention.latches =
    if s.loopMissLimit ≤ t.ring.missRun ∧ s.ring.loop = .intact then
      s.attention.latches ||| Latch.loopBroken.mask
    else s.attention.latches

/-! ## Resets (R2, R97, R182) -/

/-- An event of R2 (R2, R6, R7, R21, R24): every configured point takes the status with initial values, every other is
UNUSED, and no record or request of the Discriminator is left. -/
structure PointsReset (status : PointStatus) (s t : State) : Prop where
  points : ∀ p, t.point p = PointRecord.initial (if s.pointConfigured p then status else .unused)
  queue : t.points.queue = []
  processing : t.points.processing = none
  request : t.points.request = none

/-- The values of R97. -/
structure PeerReset (t : State) : Prop where
  state : t.peer.state = .absent
  silence : t.peer.silence = none
  entries : ∀ i, t.peerEntry i = none
  compare : ∀ i, t.compareTimer i = none

/-- The sections set by activation or restart (Table 3-6): every configured one DISTURBED with the cause, count 0,
serial 0, its timer stopped; unused ones as they were. -/
def SectionsSet (c : SectionCause) (s t : State) : Prop :=
  ∀ i, t.sect i =
    if s.sectionConfigured i then { state := .disturbed, count := 0, serial := 0, cause := c, settle := none }
    else s.sect i

/-- The cycle timer at its full period, stopped while reporting is inactive (R119). -/
def State.freshCycle (s : State) : Option Timer :=
  match s.tables.params with
  | none => none
  | some r => if s.tables.sections = [] then none else some { start := s.now, length := r.cyclePeriod * 10 }

/-- A warm restart (Table 10-6). -/
structure WarmRestarts (s t : State) : Prop where
  frame : t.now = s.now ∧ t.pwron = s.pwron ∧ t.warm = s.warm ∧ t.freeCount = s.freeCount ∧ t.pending = s.pending
  ring : t.ring =
    { ownAddress := s.ring.ownAddress
      condition := s.ring.condition
      activity := .receiving
      reception := t.ring.reception
      forward := []
      ownSeq := 1
      watch := []
      missRun := 0
      loop := if s.ring.condition = .lineDown then .broken else .intact
      tx := if s.ring.tx = .idle then .idle else .gap }
  reception : t.ring.reception = if s.ring.reception = .ready then .ready else .skipping
  tables : t.tables =
    { s.tables with
      load := none
      mode := if s.tables.activated then .startUp else .config
      startLimit := if s.tables.activated then some { start := s.now, length := 10000 } else none }
  requests : t.requests = { answers := [], activation := none, restartPending := false }
  points : PointsReset (if s.tables.activated then .starting else .inactive) s t
  sections : SectionsSet (if s.tables.activated then .start else .config) s t
  sideMap : t.sections.sideMap = s.sections.sideMap
  peer : PeerReset t
  queue : t.reports.queue = s.configuredSections
  pointer : t.reports.cyclePointer = 0
  cycle : t.reports.cycleTimer = s.freshCycle
  hold : t.reports.hold =
    match s.tables.params with
    | none => .stopped
    | some r => if s.tables.sections = [] then .stopped else .running { start := s.now, length := r.reportHold }
  attention : t.attention = { latches := Latch.warmRestart.mask, mask := 0x1FFF }

/-! ## Reception and requests -/

/-- The telegram `t` is whole in reception, good and unexpired: its bytes, no bad stop bit, its own CRC, a payload of at
most 28 bytes and a hop budget of at least 2 (R131..R133). -/
structure Receives (t : Telegram) (s : State) : Prop where
  powered : s.pwron = false
  reception : s.ring.reception = .collecting t.toBytes false false
  payload : t.payload.length ≤ 28
  crc : t.crc = t.properCrc
  hop : 2 ≤ t.hopBudget.toNat

/-- The state at the end of reception, before the telegram acts (R129). -/
def State.gapSeen (s : State) : State := { s with ring := { s.ring with reception := .ready } }

/-- A telegram that is not stripped goes on round the ring unless it is addressed to the own address (Table 7-2). -/
abbrev State.forwards (s : State) (t : Telegram) : Prop :=
  s.hasOwnAddress = false ∨ t.destination ≠ s.ring.ownAddress

/-- A telegram that is not stripped is offered to the forward buffer where Table 7-2 forwards it: placed with its hop budget
one lower, or lost with FORWARD_OVERRUN when the buffer holds 2 (R133, R134, R137). -/
def State.placed (s : State) (t : Telegram) : State :=
  if s.forwards t then
    if s.ring.forward.length < 2 then
      { s with ring := { s.ring with forward := s.ring.forward ++ [{ t with hopBudget := t.hopBudget - 1 }] } }
    else { s with attention := { s.attention with latches := s.attention.latches ||| Latch.forwardOverrun.mask } }
  else s

/-- A HEAD_STATE payload is well formed (R149): Length 4, and no bit set beside the two levels and the three
indications. -/
def WellFormedHead (payload : List Byte) : Prop :=
  ∃ levels hi lo health : Byte, payload = [levels, hi, lo, health] ∧ levels.toNat < 4 ∧ health.toNat < 8

/-- A SECTION_REPORT payload is the well-formed report `r` (R150): 1 to 4 entries with counts of at most 1023, laid out as
Table 8-11 gives. -/
structure CarriesReport (payload : List Byte) (r : Report) : Prop where
  layout : payload = r.toBytes
  entries : 1 ≤ r.entries.length ∧ r.entries.length ≤ 4
  counts : ∀ e ∈ r.entries, e.count ≤ 1023

/-- No block snoops the telegram (R4, R95, R135): its kind is neither HEAD_STATE nor SECTION_REPORT, the mode is CONFIG, a
HEAD_STATE is malformed or from no head of the points table, or a SECTION_REPORT is malformed or not from a partner. -/
def Unsnooped (t : Telegram) (s : State) : Prop :=
  t.kind ≠ 0x21 ∧ t.kind ≠ 0x42
    ∨ s.tables.mode = .config
    ∨ t.kind = 0x21 ∧ (¬WellFormedHead t.payload ∨ ∀ p e, s.pointEntry p = some e → e.headAddress ≠ t.source)
    ∨ t.kind = 0x42
      ∧ ((∀ r, ¬CarriesReport t.payload r) ∨ s.peerAddress = 0 ∨ t.source ≠ s.peerAddress
        ∨ t.source = s.ring.ownAddress)

/-- A MGMT_REQUEST from `source` with `payload`, addressed to the own address or to the pair address, is whole in reception;
one to the pair address finds room in the forward buffer (R134, tests 2 and 3 of Table 7-2). -/
structure Consumes (source : Byte) (payload : List Byte) (t : Telegram) (s : State) : Prop where
  receives : Receives t s
  kind : t.kind = 0x63
  sender : t.source = source
  content : t.payload = payload
  ownAddress : s.ring.ownAddress ≠ 0 ∧ s.ring.ownAddress ≠ 255
  destination : t.destination = s.ring.ownAddress ∨ s.pairAddress ≠ 0 ∧ t.destination = s.pairAddress
  buffer : t.destination = s.ring.ownAddress ∨ s.ring.forward.length < 2
  foreign : source ≠ s.ring.ownAddress

/-- The state in which a consumed request is executed (R135): a gap has been seen, and a request to the pair address stands in
the forward buffer with its hop budget one lower. -/
def State.handed (s : State) (t : Telegram) : State :=
  { s.gapSeen with
    ring :=
      { s.gapSeen.ring with
        forward :=
          if t.destination = s.ring.ownAddress then s.ring.forward
          else s.ring.forward ++ [{ t with hopBudget := t.hopBudget - 1 }] } }

/-- The request passes authority and admission (R155 steps 1 and 2). -/
structure Takes (source : Byte) (payload : List Byte) (t : Telegram) (s : State) : Prop where
  consumes : Consumes source payload t s
  authorised : s.authorised { source := source, payload := payload } = true
  room : s.requests.answers.length < 4

/-- The Length Table 8-13 gives for a request code; for LOAD_ENTRY, Table 8-14 by the table code it carries (R151). -/
def requestLength (code : Byte) (table : Option Byte) : Option Nat :=
  match code.toNat with
  | 0x01 => some 2
  | 0x02 => some 3
  | 0x03 => some 3
  | 0x04 => some 4
  | 0x05 => some 4
  | 0x11 => some 4
  | 0x12 => some 4
  | 0x13 => some 3
  | 0x20 => some 2
  | 0x21 => some 4
  | 0x22 =>
    match table.map BitVec.toNat with
    | some 1 => some 12
    | some 2 => some 19
    | some 3 => some 16
    | _ => none
  | 0x23 => some 2
  | 0x24 => some 4
  | 0x30 => some 2
  | _ => none

/-- The request codes of Table 8-8. -/
def requestCodes : List Byte :=
  [0x01, 0x02, 0x03, 0x04, 0x05, 0x11, 0x12, 0x13, 0x20, 0x21, 0x22, 0x23, 0x24, 0x30]

/-- Field `n` of a POINTS entry in the numbering of R152 is in its range, the table code `x` being field 1. Field 2, the entry
index, has been judged before. -/
def pointField (x : Byte) (e : PointEntry) (n : Nat) : Prop :=
  match n with
  | 1 => x = 1
  | 3 => 1 ≤ e.headAddress.toNat ∧ e.headAddress.toNat ≤ 254
  | 4 => 40 ≤ e.spacing ∧ e.spacing ≤ 400
  | 5 => 50 ≤ e.ceiling ∧ e.ceiling ≤ 3000
  | 6 => 1 ≤ e.window ∧ e.window ≤ 255
  | 7 => 2 ≤ e.recoveryCount ∧ e.recoveryCount ≤ 63
  | 8 => 1 ≤ e.suspectLimit ∧ e.suspectLimit ≤ 15
  | _ => True

/-- Field `n` of a SECTIONS entry in the numbering of R152 is in its range: boundary count `k`, the six slots as fields 4 to 9
with those beyond the count ignored, settle time and permission (Table 3-1, Table 8-6). -/
def sectionField (x k : Byte) (slots : List (Byte × Byte)) (st pm : Byte) (n : Nat) : Prop :=
  match n with
  | 1 => x = 2
  | 2 => True
  | 3 => 1 ≤ k.toNat ∧ k.toNat ≤ 6
  | 10 => 1 ≤ st.toNat
  | 11 => pm = 1 ∨ pm = 2
  | n => 4 ≤ n → ∀ b, (slots.take k.toNat)[n - 4]? = some b → b.1.toNat ≤ 47 ∧ (b.2 = 1 ∨ b.2 = 2)

/-- Field `n` of a PARAMETERS entry in the numbering of R152 is in its range (Table 10-1). -/
def paramField (x : Byte) (e : ParamRecord) (n : Nat) : Prop :=
  match n with
  | 1 => x = 3
  | 3 => e.peerAddress.toNat ≤ 254
  | 4 => e.pairAddress.toNat ≤ 254
  | 5 => 1 ≤ e.interlockingAddress.toNat ∧ e.interlockingAddress.toNat ≤ 254
  | 6 => 1 ≤ e.maintenanceAddress.toNat ∧ e.maintenanceAddress.toNat ≤ 254
  | 7 => 1 ≤ e.reportTrigger ∧ e.reportTrigger ≤ 4
  | 8 => 1 ≤ e.reportHold ∧ e.reportHold ≤ 15
  | 9 => 1 ≤ e.cyclePeriod
  | 10 => 1 ≤ e.silenceLimit
  | 11 => 1 ≤ e.compareWindow
  | 12 => 1 ≤ e.roundTripLimit
  | 13 => 1 ≤ e.loopMissLimit ∧ e.loopMissLimit ≤ 15
  | 14 => 8 ≤ e.hopBudget.toNat
  | _ => True

/-- The two sides of a point, as boundary entries of one list: `b` names the other side of the point of `c`. -/
def Boundary.opposes (b c : Boundary) : Prop := b.point = c.point ∧ b.inside ≠ c.inside

/-- The head address of a point equals the own address or an address of the parameter record (check 8 of Table 10-5). -/
def State.atStation (s : State) (p : PointIndex) : Prop :=
  ∃ e r, s.pointEntry p = some e ∧ s.tables.params = some r
    ∧ (e.headAddress = s.ring.ownAddress ∨ e.headAddress = r.peerAddress ∨ e.headAddress = r.pairAddress
      ∨ e.headAddress = r.interlockingAddress ∨ e.headAddress = r.maintenanceAddress)

/-- A configured point has the head address of `p` and a lower index (check 7 of Table 10-5). -/
def State.repeatsHead (s : State) (p : PointIndex) : Prop :=
  ∃ q e f, q < p ∧ s.pointEntry q = some e ∧ s.pointEntry p = some f ∧ e.headAddress = f.headAddress

/-- Check `n` of Table 10-5 passes. -/
def State.passes (s : State) (n : Nat) : Prop :=
  match n with
  | 1 => s.tables.params ≠ none
  | 2 => s.configuredSections ≠ []
  | 3 => ∀ i, ∀ b ∈ s.boundaries i, s.pointConfigured b.point = true
  | 4 => (s.configuredSections.flatMap s.boundaries).Nodup
  | 5 => ∀ i, ∀ b ∈ s.boundaries i, ∀ c ∈ s.boundaries i, ¬b.opposes c
  | 6 => ∀ p, s.pointConfigured p = true → ∃ i, ∃ b ∈ s.boundaries i, b.point = p
  | 7 => ∀ p, ¬s.repeatsHead p
  | 8 => ∀ p, ¬s.atStation p
  | _ => True

/-- Check `n` of Table 10-5 fails, and `index` is that of the first item of its scan order that fails. -/
def State.failsAt (s : State) (n : Nat) (index : Byte) : Prop :=
  match n with
  | 1 => s.tables.params = none ∧ index = 255
  | 2 => s.configuredSections = [] ∧ index = 255
  | 3 => ∃ i, index = byte i.val ∧ (∃ b ∈ s.boundaries i, s.pointConfigured b.point = false)
      ∧ ∀ j < i, ∀ b ∈ s.boundaries j, s.pointConfigured b.point = true
  | 4 => ∃ earlier b later, s.configuredSections.flatMap s.boundaries = earlier ++ b :: later ∧ earlier.Nodup
      ∧ b ∈ earlier ∧ index = byte b.point.val
  | 5 => ∃ i earlier b later, s.boundaries i = earlier ++ b :: later
      ∧ (∀ c ∈ earlier, ∀ d ∈ earlier, ¬c.opposes d) ∧ (∃ c ∈ earlier, c.opposes b)
      ∧ (∀ j < i, ∀ c ∈ s.boundaries j, ∀ d ∈ s.boundaries j, ¬c.opposes d) ∧ index = byte b.point.val
  | 6 => ∃ p, index = byte p.val ∧ s.pointConfigured p = true ∧ (∀ i, ∀ b ∈ s.boundaries i, b.point ≠ p)
      ∧ ∀ q < p, ∃ i, ∃ b ∈ s.boundaries i, b.point = q
  | 7 => ∃ p, index = byte p.val ∧ s.repeatsHead p ∧ ∀ q < p, ¬s.repeatsHead q
  | 8 => ∃ p, index = byte p.val ∧ s.atStation p ∧ ∀ q < p, ¬s.atStation q
  | _ => False

/-- The answer to a request, as it stands on the answer queue (R153, R158). -/
def reply (source code tag : Byte) (outcome : AnswerOutcome) (data : List Byte) : AnswerPlace :=
  .formed
    { destination := source
      code := code
      tag := tag
      outcome := outcome
      data := data
      restart := false }

/-- The state with one more place at the tail of the answer queue (R158). -/
def State.plusAnswer (s : State) (a : AnswerPlace) : State :=
  { s with requests := { s.requests with answers := s.requests.answers ++ [a] } }

end Sys2Proof.Machine
end

