-- ==== Sys2Proof/WellFormed.lean ====
section
/-! DEFINITION. Which commands name something the part has. -/

namespace Sys2Proof

/-- Points are numbered 0..47 and sections 0..31 (00_scope.md 3.1). Every other operand is a byte or a level and
may hold anything. -/
def Instr.wellFormed (c : Instr) : Bool :=
  match c with
  | .supervisionExpiry p => decide (p < 48)
  | .settleTimerExpiry i => decide (i < 32)
  | .compareTimerExpiry i => decide (i < 32)
  | .powerOnReset _ => true
  | .warmRestart => true
  | .lineDown => true
  | .lineUp _ _ => true
  | .ringInFree => true
  | .completesReception => true
  | .recordTake => true
  | .recordApply => true
  | .skipOrSuspectRequestTaken => true
  | .startUpLimitExpiry => true
  | .peerSilenceExpiry => true
  | .cycleStep => true
  | .holdTimerExpiry => true
  | .transmissionEnd => true
  | .transmitterGapEnd => true
  | .watchRecordExpiry => true
  | .loadIdleTimeout => true
  | .activationEnd => true
  | .pwronAsserted => true
  | .startBit _ _ => true
  | .warmReleased => true

end Sys2Proof
end

