-- ==== Sys2Proof/Certificates/Slice0/Obligations.lean ====
section
/-! DEFINITION. The statements for the provers. Each is about every state unless it says otherwise; what it takes for
granted stands in its hypotheses, and Tests/Slice0.lean shows for each a state that meets them. A command whose effect may
let RING OUT be granted answers `arbitrate u`: `u` is its own effect, and Obligations.ArbiterOrder with
Obligations.ReportFormed say what the arbiter then does (R139). -/

open Sys2Proof Sys2Proof.Machine

/-! ## The step -/

/-- step with a command at the front of the queue is exec of that command with the queue's rest: how commands come to run is
the model's choice (log 1, log 22). -/
def Obligations.StepRunsFrontCommand : Prop :=
  ∀ (c : Instr) (rest : List Instr) (s : State),
    step { s with pending := c :: rest } = exec c { s with pending := rest }

/-- Every command that names a point and a section the part has (00_scope.md 3.1) completes in every state: the spec
stops the part nowhere. One that names a point above 47 or a section above 31 faults: the model's choice of log 29. -/
def Obligations.CommandsCompleteWithinThePart : Prop :=
  (∀ (c : Instr) (s : State), c.wellFormed = true → ∃ t, exec c s = .next t)
    ∧ ∀ (n : Nat) (s : State),
      (48 ≤ n → exec (.supervisionExpiry n) s = .fault (.noSuchPoint n))
        ∧ (32 ≤ n → exec (.settleTimerExpiry n) s = .fault (.noSuchSection n))
        ∧ (32 ≤ n → exec (.compareTimerExpiry n) s = .fault (.noSuchSection n))

/-- No command touches the queue of commands, and none but POWER_ON_RESET changes evaluator time. That a command takes no time
and leaves the queue alone is the model's choice (log 1, log 10); that evaluator time is 0 at the release of PWRON alone and
runs on through a warm restart is 00_scope.md 3.3. -/
def Obligations.CommandsKeepQueueAndTime : Prop :=
  ∀ (c : Instr) (s t : State), exec c s = .next t →
    t.pending = s.pending ∧ ((∀ pins, c ≠ .powerOnReset pins) → t.now = s.now)

/-- The model's choice of log 1 and log 4: with no command waiting, a millisecond passes when no expiry is due, and else one
due expiry is put in the queue and no time passes. Which of the ten expiries is due, and nothing else is, follows from the
rules of the timers (R15, R17, R61, R99, R104, R118, R120, R143, R174); that an activation is due 40 ms after it began, and a
watch record when its age exceeds the limit, is the model's (R177, log 17; log 12). -/
def Obligations.IdleStepTicksOrRaises : Prop :=
  ∀ s : State, s.pending = [] →
    (s.pwron = true → step s = .next s)
      ∧ (s.pwron = false → s.dueCommands = [] → step s = .next { s with now := s.now + 1 })
      ∧ (s.pwron = false → s.dueCommands ≠ [] →
          ∃ c ∈ s.dueCommands, ∃ n, step s = .next { s with pending := [c], freeCount := n })
      ∧ (∀ p : PointIndex, Instr.supervisionExpiry p.val ∈ s.dueCommands ↔
          ((s.point p).status = .healthy ∨ (s.point p).status = .faulted)
            ∧ ∃ m, (s.point p).supervision = some m ∧ m.length ≤ (s.now - m.start).toNat)
      ∧ (∀ i : SectionIndex, Instr.settleTimerExpiry i.val ∈ s.dueCommands ↔
          (s.sect i).state = .settling ∧ ∃ m, (s.sect i).settle = some m ∧ m.length ≤ (s.now - m.start).toNat)
      ∧ (∀ i : SectionIndex, Instr.compareTimerExpiry i.val ∈ s.dueCommands ↔
          ∃ m, s.compareTimer i = some m ∧ m.length ≤ (s.now - m.start).toNat)
      ∧ (.startUpLimitExpiry ∈ s.dueCommands ↔
          s.tables.mode = .startUp
            ∧ ∃ m, s.tables.startLimit = some m ∧ m.length ≤ (s.now - m.start).toNat)
      ∧ (.peerSilenceExpiry ∈ s.dueCommands ↔
          ∃ m, s.peer.silence = some m ∧ m.length ≤ (s.now - m.start).toNat)
      ∧ (.cycleStep ∈ s.dueCommands ↔
          s.tables.params ≠ none ∧ s.tables.sections ≠ []
            ∧ ∃ m, s.reports.cycleTimer = some m ∧ m.length ≤ (s.now - m.start).toNat)
      ∧ (.holdTimerExpiry ∈ s.dueCommands ↔
          ∃ m, s.reports.hold = .running m ∧ m.length ≤ (s.now - m.start).toNat)
      ∧ (.watchRecordExpiry ∈ s.dueCommands ↔
          ∃ w rest, s.ring.watch = w :: rest
            ∧ (match s.tables.params with | none => 255 | some r => r.roundTripLimit) < (s.now - w.sendTime).toNat)
      ∧ (.loadIdleTimeout ∈ s.dueCommands ↔
          ∃ l, s.tables.load = some l ∧ l.idle.length ≤ (s.now - l.idle.start).toNat)
      ∧ (.activationEnd ∈ s.dueCommands ↔
          ∃ a, s.requests.activation = some a ∧ 40 ≤ (s.now - a.began).toNat)
      ∧ ∀ c ∈ s.dueCommands,
          (∃ p : PointIndex, c = .supervisionExpiry p.val) ∨ (∃ i : SectionIndex, c = .settleTimerExpiry i.val)
            ∨ (∃ i : SectionIndex, c = .compareTimerExpiry i.val)
            ∨ c ∈ [Instr.startUpLimitExpiry, .peerSilenceExpiry, .cycleStep, .holdTimerExpiry, .watchRecordExpiry,
                .loadIdleTimeout, .activationEnd]

/-! ## Power and restart (10.7, 10.8) -/

/-- The release of PWRON sets every item of the part (R184, R2, R46, R97, R119, R136, R141, R145, R165, R167, R171, and
Table 3-6), and evaluator time is 0 (00_scope.md 3.3). The level of WARM and what RING IN has under way (log 7, log 8), that
the command acts whether or not an assertion came before, and that it keeps the queue of commands and the count of free values
(log 10, log 21), are the model's choice. -/
def Obligations.PwronReleaseSetsEveryItem : Prop :=
  ∀ (pins : Byte) (s : State), ∃ t, exec (.powerOnReset pins) s = .next t
    ∧ t.now = 0 ∧ t.pwron = false ∧ t.alarm = true
    ∧ t.ring =
        { ownAddress := pins
          condition := .lineUp
          activity := .receiving
          reception := if s.ring.reception = .ready then .ready else .skipping
          forward := []
          ownSeq := 1
          watch := []
          missRun := 0
          loop := .intact
          tx := .idle }
    ∧ (∀ p, t.point p = PointRecord.initial .unused)
    ∧ t.points.queue = [] ∧ t.points.processing = none ∧ t.points.request = none
    ∧ (∀ i, t.sect i = { state := .disturbed, count := 0, serial := 0, cause := .config, settle := none })
    ∧ (∀ p, t.sides p = { sideA := none, sideB := none })
    ∧ PeerReset t
    ∧ t.reports = { queue := [], cyclePointer := 0, cycleTimer := none, hold := .stopped }
    ∧ t.requests = { answers := [], activation := none, restartPending := false }
    ∧ t.tables =
        { points := []
          sections := []
          params := none
          load := none
          activated := false
          version := 0
          mode := .config
          startLimit := none }
    ∧ t.attention = { latches := Latch.powerOn.mask, mask := 0x1FFF }
    ∧ t.warm = s.warm ∧ t.freeCount = s.freeCount ∧ t.pending = s.pending

/-- The assertion of PWRON ends a load, an activation, a restart pending and a transmission without effect or answer, puts
RING OUT at mark, clears every latch and releases ALARM; while it lasts, every command other than the release and a renewed
assertion keeps everything except the level of the WARM line and what RING IN has under way (R165, R168, R184). That every
other command keeps the state then is deduced (log 18); what else waits for the release, and those two, are the model's choice
(log 7, log 8, log 9). -/
def Obligations.AssertedPwronStopsThePart : Prop :=
  (∀ s : State, ∃ t, exec .pwronAsserted s = .next t
    ∧ t.alarm = false
    ∧ t =
      { s with
        pwron := true
        ring := { s.ring with tx := .idle, reception := t.ring.reception }
        requests := { answers := s.requests.answers.erase .reserved, activation := none, restartPending := false }
        tables := { s.tables with load := none }
        attention := { s.attention with latches := 0 } }
    ∧ t.ring.reception = if s.ring.reception = .ready then .ready else .skipping)
    ∧ ∀ (c : Instr) (s t : State), s.pwron = true → (∀ pins, c ≠ .powerOnReset pins) → c ≠ .pwronAsserted →
      exec c s = .next t →
        t = { s with warm := t.warm, ring := { s.ring with reception := t.ring.reception } }

/-- An assertion of the WARM line, released before and with PWRON released, is a warm restart: every item of Table 10-6
takes its value in one action (R182, R183, R145), and ALARM is asserted (R168). WARM held asserted gives no further one; a
release lets the next assertion give one. While PWRON is asserted only the level of the line is kept (R184, log 7). -/
def Obligations.WarmRestartSetsEveryItem : Prop :=
  ∀ s : State,
    (s.pwron = false → s.warm = false →
      ∃ u, exec .warmRestart s = .next (arbitrate u) ∧ WarmRestarts { s with warm := true } u ∧ u.alarm = true)
      ∧ (s.warm = true → exec .warmRestart s = .next s)
      ∧ (s.warm = false → s.pwron = true → exec .warmRestart s = .next { s with warm := true })
      ∧ exec .warmReleased s = .next { s with warm := false }

/-! ## RING IN (7.1 to 7.3) -/

/-- A start bit with its character makes the line RECEIVING; the character begins a telegram after a gap, joins the telegram
in reception with no byte stored after the 36th, or belongs to no telegram (R128, R129, R131). In LINE_DOWN it is the
return to LINE_UP and begins a new telegram, as LINE_UP does (R130, log 15). That LINE_UP on a line that is up has no effect
is the model's reading too (log 15, log 2). -/
def Obligations.CharacterReceived : Prop :=
  ∀ (data : Byte) (goodStop : Bool) (s : State), s.pwron = false →
    (s.ring.condition = .lineUp →
      ∃ r, exec (.startBit data goodStop) s =
          .next { s with ring := { s.ring with activity := .receiving, reception := r } }
        ∧ (s.ring.reception = .ready → r = .collecting [data] (!goodStop) false)
        ∧ (s.ring.reception = .skipping → r = .skipping)
        ∧ (∀ bytes bad long, s.ring.reception = .collecting bytes bad long →
            r = if bytes.length < 36 then .collecting (bytes ++ [data]) (bad || !goodStop) long
              else .collecting bytes (bad || !goodStop) true))
      ∧ (s.ring.condition = .lineDown →
        ∀ c, c = Instr.startBit data goodStop ∨ c = Instr.lineUp data goodStop →
          exec c s =
            .next
              { s with
                ring :=
                  { s.ring with
                    condition := .lineUp
                    activity := .receiving
                    reception := .collecting [data] (!goodStop) false } })
      ∧ (s.ring.condition = .lineUp → exec (.lineUp data goodStop) s = .next s)

/-- A break closes the telegram in reception as bad, makes the loop BROKEN, and counts as FREE (R130, R131, R144); six quiet
character times on a line that is up make it FREE (R129). Either may let an insertion be granted (R139, R140). The model's
readings: a break on a line that is down has no effect (log 2), and one with no telegram in reception sets no BAD_TELEGRAM,
since its characters have completed before; six quiet character times have no effect during a telegram and in LINE_DOWN
(log 15). -/
def Obligations.LineMonitorFollowsRingIn : Prop :=
  ∀ s : State, s.pwron = false →
    (s.ring.condition = .lineUp →
      exec .lineDown s =
        .next
          (arbitrate
            { s with
              ring := { s.ring with condition := .lineDown, activity := .free, reception := .ready, loop := .broken }
              attention :=
                { s.attention with
                  latches :=
                    s.attention.latches
                      ||| (if s.ring.reception = .ready ∨ s.ring.reception = .skipping then 0
                        else Latch.badTelegram.mask)
                      ||| (if s.ring.loop = .intact then Latch.loopBroken.mask else 0) } }))
      ∧ (s.ring.condition = .lineDown → exec .lineDown s = .next s)
      ∧ (s.ring.condition = .lineUp → s.ring.reception = .ready ∨ s.ring.reception = .skipping →
        exec .ringInFree s =
          .next (arbitrate { s with ring := { s.ring with activity := .free, reception := .ready } }))
      ∧ (s.ring.condition = .lineDown
            ∨ (∃ bytes badStop tooLong, s.ring.reception = .collecting bytes badStop tooLong) →
        exec .ringInFree s = .next s)

/-- Good characters that follow a gap stand in reception in the order they came, up to 36 of them (R128, R129, R131): a run
of START_BIT commands leaves exactly the bytes sent. -/
def Obligations.TelegramArrivesCharacterByCharacter : Prop :=
  ∀ (bytes : List Byte) (s : State), s.pwron = false → s.ring.condition = .lineUp → s.ring.reception = .ready →
    1 ≤ bytes.length → bytes.length ≤ 36 →
      Host.Core.run Sys2Proof.core bytes.length
          { s with pending := bytes.map fun b => Instr.startBit b true } =
        .next
          { s with
            ring := { s.ring with activity := .receiving, reception := .collecting bytes false false }
            pending := [] }

/-- The frame of Table 8-1 read back: a telegram with a payload of at most 28 bytes and its own CRC passes the receive
checks as itself, with any hop budget, which the CRC leaves out (R131, R132); and the payload of Table 8-11 read back: a payload
is read as a report exactly when it carries that report well formed, with 1 to 4 entries of counts of at most 1023 (R122,
R150). -/
def Obligations.TelegramRoundTrip : Prop :=
  (∀ (t : Telegram) (hop : Byte), t.payload.length ≤ 28 →
    Telegram.ofBytes t.toBytes = some t
      ∧ (t.crc = t.properCrc →
          receiveChecks ({ t with hopBudget := hop } : Telegram).toBytes false false =
            some { t with hopBudget := hop }))
    ∧ ∀ (payload : List Byte) (r : Report), reportOf payload = some r ↔ CarriesReport payload r

/-- A bad telegram is dropped and sets BAD_TELEGRAM, an expired one is dropped and sets HOP_EXPIRED, and neither does
anything else (R131, R132, R133); a gap with no telegram in reception lets the next character begin one (R129), and a gap after
a gap has no effect (log 2). -/
def Obligations.BadAndExpiredTelegramsDropped : Prop :=
  ∀ s : State, s.pwron = false →
    (∀ bytes badStop tooLong, s.ring.reception = .collecting bytes badStop tooLong →
      badStop = true ∨ bytes.length < 8 ∨ tooLong = true
          ∨ (∃ l : Byte, bytes[5]? = some l ∧ (28 < l.toNat ∨ bytes.length ≠ 8 + l.toNat))
          ∨ (8 ≤ bytes.length
            ∧ bytes.drop (bytes.length - 2) ≠
              twoBytes (crcOf (bytes.take 4 ++ (bytes.drop 5).take (bytes.length - 7))).toNat) →
        exec .completesReception s =
          .next
            (arbitrate
              { s.gapSeen with
                attention := { s.attention with latches := s.attention.latches ||| Latch.badTelegram.mask } }))
      ∧ (∀ t : Telegram, s.ring.reception = .collecting t.toBytes false false → t.payload.length ≤ 28 →
        t.crc = t.properCrc → t.hopBudget = 0 ∨ t.hopBudget = 1 →
          exec .completesReception s =
            .next
              (arbitrate
                { s.gapSeen with
                  attention := { s.attention with latches := s.attention.latches ||| Latch.hopExpired.mask } }))
      ∧ (s.ring.reception = .ready → exec .completesReception s = .next s)
      ∧ (s.ring.reception = .skipping → exec .completesReception s = .next s.gapSeen)

/-- An own telegram that comes back is stripped: with a record of its sequence on the return watch list it has returned, so
the record leaves, the miss run is 0 and the loop INTACT; without one it is discarded (R134, R143, R144). Nothing is snooped
or forwarded (R135). R142 says that no two records share a sequence; that the older leaves where two do is the model's choice
(log 31). -/
def Obligations.OwnTelegramStripped : Prop :=
  ∀ (t : Telegram) (s : State), Receives t s → s.ring.ownAddress ≠ 0 → s.ring.ownAddress ≠ 255 →
    t.source = s.ring.ownAddress →
      ((∃ w ∈ s.ring.watch, w.seq = t.seq) →
        exec .completesReception s =
          .next
            (arbitrate
              { s.gapSeen with
                ring :=
                  { s.gapSeen.ring with
                    watch := s.ring.watch.eraseP fun w => w.seq == t.seq
                    missRun := 0
                    loop := .intact } }))
        ∧ ((∀ w ∈ s.ring.watch, w.seq ≠ t.seq) →
          exec .completesReception s = .next (arbitrate s.gapSeen))

/-- A telegram that is not stripped and that no block snoops (R4, R95, R135, R149, R150): one that is no request, or a request
for another station, is offered to the forward buffer unless it is addressed to the own address, and has no other effect (R134,
R137, tests 2 to 4 of Table 7-2); a request to the own address is handed to the Request Executor and not forwarded; one to the
pair address is handed over and forwarded, and where the buffer is full it is handed over all the same and FORWARD_OVERRUN is
set. Which of these two comes first is a free value (log 5). -/
def Obligations.OtherTelegramsForwardedOrDiscarded : Prop :=
  ∀ (t : Telegram) (s : State), Receives t s → Unsnooped t s →
    s.hasOwnAddress = false ∨ t.source ≠ s.ring.ownAddress →
      let taken := handleRequest { source := t.source, payload := t.payload }
      let drawn := { s.gapSeen with freeCount := s.freeCount + 1 }
      (t.kind ≠ 0x63 → exec .completesReception s = .next (arbitrate (s.gapSeen.placed t)))
        ∧ (t.kind = 0x63 → s.forwards t → s.pairAddress = 0 ∨ t.destination ≠ s.pairAddress →
          exec .completesReception s = .next (arbitrate (s.gapSeen.placed t)))
        ∧ (t.kind = 0x63 → ¬s.forwards t → exec .completesReception s = .next (arbitrate (taken s.gapSeen)))
        ∧ (t.kind = 0x63 → s.forwards t → s.pairAddress ≠ 0 → t.destination = s.pairAddress →
          (s.ring.forward.length < 2 →
            exec .completesReception s = .next (arbitrate (taken (s.gapSeen.placed t))))
            ∧ (2 ≤ s.ring.forward.length →
              exec .completesReception s = .next (arbitrate (taken (drawn.placed t)))
                ∨ exec .completesReception s = .next (arbitrate ((taken drawn).placed t))))

/-! ## RING OUT (7.5 to 7.8) -/

/-- The arbiter (R139, R140, R141, R147): while the transmitter is not IDLE it grants nothing; else the oldest forwarded
telegram, which it keeps in the buffer; else, with an own address, an empty buffer and a line that is FREE or down, the
oldest formed answer, which leaves the queue with the reservation passed over; else nothing unless a report is eligible
(Obligations.ReportFormed). -/
def Obligations.ArbiterOrder : Prop :=
  ∀ s : State,
    (s.ring.tx ≠ .idle → arbitrate s = s)
      ∧ (s.ring.tx = .idle → ∀ t rest, s.ring.forward = t :: rest →
        arbitrate s = { s with ring := { s.ring with tx := .sending t .forwarded } })
      ∧ (s.ring.tx = .idle → s.ring.forward = [] →
        s.ring.ownAddress = 0 ∨ s.ring.ownAddress = 255
            ∨ s.ring.condition = .lineUp ∧ s.ring.activity = .receiving →
          arbitrate s = s)
      ∧ (s.ring.tx = .idle → s.ring.forward = [] → s.ring.ownAddress ≠ 0 → s.ring.ownAddress ≠ 255 →
        s.ring.condition = .lineDown ∨ s.ring.activity = .free →
          (∀ (earlier later : List AnswerPlace) (a : Answer),
            s.requests.answers = earlier ++ .formed a :: later → (∀ x ∈ earlier, x = .reserved) →
              arbitrate s =
                { s with
                  requests := { s.requests with answers := earlier ++ later }
                  ring :=
                    { s.ring with
                      ownSeq := if s.ring.ownSeq = 255 then 1 else s.ring.ownSeq + 1
                      tx :=
                        .sending
                          { kind := 0x64
                            destination := a.destination
                            source := s.ring.ownAddress
                            seq := s.ring.ownSeq
                            hopBudget := s.hopBudget
                            payload := [a.code, a.tag, a.outcome.code] ++ a.data
                            crc :=
                              crcOf
                                ([0x64, a.destination, s.ring.ownAddress, s.ring.ownSeq,
                                    byte (3 + a.data.length), a.code, a.tag, a.outcome.code]
                                  ++ a.data) }
                          (.answer a.restart) } })
            ∧ ((∀ a, .formed a ∉ s.requests.answers) → s.eligible = false → arbitrate s = s))

/-- A report is eligible while reporting is active, the queue is not empty, and it holds at least the report trigger or the
hold timer has expired (R117, R121). Granted, it takes the k oldest entries of the queue, k the smaller of 4 and their
number, reads each from its section record at that moment, and stops the hold timer when it empties the queue (R120,
R122, R147). That eligibility is judged at the grant is deduced (log 30). -/
def Obligations.ReportFormed : Prop :=
  ∀ (s : State) (r : ParamRecord), s.tables.params = some r →
    (s.eligible = true ↔
      s.tables.sections ≠ [] ∧ s.reports.queue ≠ []
        ∧ (r.reportTrigger ≤ s.reports.queue.length ∨ s.reports.hold = .expired))
      ∧ (s.eligible = true → s.ring.tx = .idle → s.ring.forward = [] → s.ring.ownAddress ≠ 0 →
        s.ring.ownAddress ≠ 255 → s.ring.condition = .lineDown ∨ s.ring.activity = .free →
        (∀ a, .formed a ∉ s.requests.answers) →
          let payload :=
            twoBytes s.tables.version.toNat ++ [byte (min 4 s.reports.queue.length)]
              ++ (s.reports.queue.take 4).flatMap fun i =>
                [byte i.val, (s.sect i).state.code] ++ twoBytes (s.sect i).count
                  ++ [(s.sect i).serial, (s.sect i).cause.code]
          arbitrate s =
            { s with
              reports :=
                { s.reports with
                  queue := s.reports.queue.drop 4
                  hold := if s.reports.queue.length ≤ 4 then .stopped else s.reports.hold }
              ring :=
                { s.ring with
                  ownSeq := if s.ring.ownSeq = 255 then 1 else s.ring.ownSeq + 1
                  tx :=
                    .sending
                      { kind := 0x42
                        destination := r.interlockingAddress
                        source := s.ring.ownAddress
                        seq := s.ring.ownSeq
                        hopBudget := r.hopBudget
                        payload := payload
                        crc :=
                          crcOf
                            ([0x42, r.interlockingAddress, s.ring.ownAddress, s.ring.ownSeq,
                                byte (3 + 6 * min 4 s.reports.queue.length)]
                              ++ payload) }
                      .report } })

/-- The transmission end (R138, R142, R144, R164): the transmitter is in GAP; a forwarded telegram leaves the buffer; an own
telegram joins the tail of the return watch list, whose oldest record is lost as a miss when it holds 8; the answer a
restart pending is marked against begins the warm restart. When the GAP has passed the transmitter is IDLE and the arbiter
may grant. That the record joins also where one of its sequence is held, which R142 rules out without a step for it, and that a
run above the loop miss limit counts as having reached it, is the model's choice (log 31, log 32). -/
def Obligations.TransmissionEnds : Prop :=
  ∀ (t : Telegram) (cls : TxClass) (s : State), s.pwron = false →
    (s.ring.tx = .sending t cls →
      (cls = .forwarded →
        exec .transmissionEnd s =
          .next { s with ring := { s.ring with tx := .gap, forward := s.ring.forward.tail } })
        ∧ (cls = .report ∨ cls = .answer false → s.ring.watch.length < 8 →
          exec .transmissionEnd s =
            .next
              { s with
                ring :=
                  { s.ring with
                    tx := .gap
                    watch := s.ring.watch ++ [{ seq := t.seq, sendTime := s.now }] } })
        ∧ (cls = .report ∨ cls = .answer false → 8 ≤ s.ring.watch.length →
          ∃ u, exec .transmissionEnd s = .next u
            ∧ Misses (s.ring.watch.tail ++ [{ seq := t.seq, sendTime := s.now }])
              { s with ring := { s.ring with tx := .gap } } u)
        ∧ (cls = .answer true → ∃ u, exec .transmissionEnd s = .next u ∧ WarmRestarts s u ∧ u.alarm = true))
      ∧ (s.ring.tx = .gap →
        exec .transmitterGapEnd s = .next (arbitrate { s with ring := { s.ring with tx := .idle } }))

/-- A return watch record older than the round-trip limit is removed as a miss (R143, R144, log 12); without a parameter
record the limit is 255 ms and the miss limit 15. That the command has no effect on a younger record, and that a run above the
miss limit counts as having reached it, is the model's choice (log 2, log 32). -/
def Obligations.WatchRecordExpires : Prop :=
  ∀ (w : WatchRecord) (rest : List WatchRecord) (s : State), s.pwron = false → s.ring.watch = w :: rest →
    ((match s.tables.params with | none => 255 | some r => r.roundTripLimit) < (s.now - w.sendTime).toNat →
      ∃ u, exec .watchRecordExpiry s = .next u ∧ Misses rest s u
        ∧ s.loopMissLimit = (match s.tables.params with | none => 15 | some r => r.loopMissLimit))
      ∧ ((s.now - w.sendTime).toNat ≤ (match s.tables.params with | none => 255 | some r => r.roundTripLimit) →
        exec .watchRecordExpiry s = .next s)

/-! ## Points (chapter 1) -/

/-- A well-formed HEAD_STATE of a configured head, in START-UP or SERVICE and not stripped, is stamped and offered to the point
event queue and restarts the supervision timer of a HEALTHY or FAULTED point, whatever its destination and whether or not the
forward buffer has room; it goes on round the ring unless it is addressed to the own address (R4, R5, R6, R134, R135, R137,
R149). -/
def Obligations.HeadTelegramSnooped : Prop :=
  ∀ (t : Telegram) (levels hi lo health : Byte) (p : PointIndex) (e : PointEntry) (s : State), Receives t s →
    t.kind = 0x21 → t.payload = [levels, hi, lo, health] → levels.toNat < 4 → health.toNat < 8 →
    s.tables.mode ≠ .config → s.pointEntry p = some e → e.headAddress = t.source →
    (∀ q f, s.pointEntry q = some f → f.headAddress = t.source → q = p) →
    s.hasOwnAddress = false ∨ t.source ≠ s.ring.ownAddress →
      ∃ u : State, exec .completesReception s = .next (arbitrate (u.placed t))
        ∧ u =
          { s.gapSeen with
            points := { s.points with records := u.points.records, queue := u.points.queue }
            attention := { s.attention with latches := u.attention.latches } }
        ∧ (∀ q, u.point q =
            if q = p ∧ ((s.point p).status = .healthy ∨ (s.point p).status = .faulted) then
              { s.point p with supervision := some { start := s.now, length := e.window * 10 } }
            else s.point q)
        ∧ (s.points.queue.length < 64 →
          u.attention.latches = s.attention.latches
            ∧ u.points.queue =
              s.points.queue
                ++ [{ point := p
                      seq := t.seq
                      s1 := levels.getLsbD 0
                      s2 := levels.getLsbD 1
                      tick := BitVec.ofNat 16 (hi.toNat * 256 + lo.toNat)
                      health :=
                        { s1Fault := health.getLsbD 0
                          s2Fault := health.getLsbD 1
                          internalFault := health.getLsbD 2 }
                      arrival := s.now }])
        ∧ (64 ≤ s.points.queue.length →
          u.attention.latches = s.attention.latches ||| Latch.eventOverrun.mask ∧ u.points.queue = s.points.queue)

/-- The idle Discriminator takes the head record of the point event queue, which leaves the queue at once; it takes none
while a record is in processing or its request has not been taken (R7, R24). That RECORD_TAKE then, or with an empty queue,
leaves the state is the model's choice (log 2). -/
def Obligations.RecordTaken : Prop :=
  ∀ s : State, s.pwron = false →
    (s.points.processing = none → s.points.request = none → ∀ r rest, s.points.queue = r :: rest →
      exec .recordTake s = .next { s with points := { s.points with queue := rest, processing := some r } })
      ∧ (s.points.processing ≠ none ∨ s.points.request ≠ none ∨ s.points.queue = [] →
        exec .recordTake s = .next s)

/-- The checks of a record applied to a HEALTHY point (Table 1-6, R9, R12): a duplicate has no effect, whatever it carries;
a sequence 0 that is neither the successor of the reference nor a repeat is HEAD_RESTART, any other such sequence is GAP,
and neither looks at levels or health; an accepted record with a nonzero health field is HEAD_REPORT. -/
def Obligations.HealthyRecordChecked : Prop :=
  ∀ (r : EventRecord) (q : Byte) (s : State), s.pwron = false → s.points.processing = some r →
    (s.point r.point).status = .healthy → (s.point r.point).seqRef = some q →
      let successor : Byte := if q = 255 then 1 else q + 1
      (r.seq ≠ successor → r.seq = q → exec .recordApply s = .next (arbitrate s.taken))
        ∧ (r.seq ≠ successor → r.seq ≠ q → r.seq = 0 →
          ∃ u, exec .recordApply s = .next (arbitrate u) ∧ EntersFaulted r.point .headRestart s.taken u)
        ∧ (r.seq ≠ successor → r.seq ≠ q → r.seq ≠ 0 →
          ∃ u, exec .recordApply s = .next (arbitrate u) ∧ EntersFaulted r.point .gap s.taken u)
        ∧ (r.seq = successor → r.health ≠ { s1Fault := false, s2Fault := false, internalFault := false } →
          ∃ u, exec .recordApply s = .next (arbitrate u) ∧ EntersFaulted r.point .headReport s.taken u)

/-- Table 1-7 (R10): the first record of a STARTING point, with any sequence, makes it HEALTHY, HEAD_REPORT or
OCCUPIED_AT_START; the departure ends START-UP when it leaves no configured point STARTING (R181). -/
def Obligations.StartingPointLeaves : Prop :=
  ∀ (r : EventRecord) (s : State), s.pwron = false → s.points.processing = some r →
    (s.point r.point).status = .starting →
      let noHealth : Health := { s1Fault := false, s2Fault := false, internalFault := false }
      (r.health ≠ noHealth →
        ∃ v u, exec .recordApply s = .next (arbitrate u) ∧ EntersFaulted r.point .headReport s.taken v
          ∧ EndsStartUp v u)
        ∧ (r.health = noHealth → r.s1 = true ∨ r.s2 = true →
          ∃ v u, exec .recordApply s = .next (arbitrate u) ∧ EntersFaulted r.point .occupiedAtStart s.taken v
            ∧ EndsStartUp v u)
        ∧ (r.health = noHealth → r.s1 = false → r.s2 = false →
          ∃ v u, exec .recordApply s = .next (arbitrate u) ∧ EndsStartUp v u
            ∧ v =
              s.taken.setPoint r.point
                { s.point r.point with
                  status := .healthy
                  seqRef := some r.seq
                  supervision :=
                    (s.pointEntry r.point).map fun e => { start := s.now, length := e.window * 10 } })

/-- Table 1-8 (R11): a record applied to a FAULTED point becomes the reference; an acceptable one advances the recovery run
and at the recovery count makes the point HEALTHY, any other sets the run to 0; no section is touched. A run that would be
above the count counts as at it (log 23). -/
def Obligations.FaultedPointRecovers : Prop :=
  ∀ (r : EventRecord) (e : PointEntry) (s : State), s.pwron = false → s.points.processing = some r →
    (s.point r.point).status = .faulted → s.pointEntry r.point = some e →
      let x := s.point r.point
      let acceptable :=
        r.s1 = false ∧ r.s2 = false ∧ r.health = { s1Fault := false, s2Fault := false, internalFault := false }
          ∧ (x.seqRef = none → r.seq ≠ 0)
          ∧ (∀ q, x.seqRef = some q → r.seq = if q = 255 then 1 else q + 1)
      (¬acceptable →
        exec .recordApply s =
          .next (arbitrate (s.taken.setPoint r.point { x with run := 0, seqRef := some r.seq })))
        ∧ (acceptable → x.run + 1 < e.recoveryCount →
          exec .recordApply s =
            .next (arbitrate (s.taken.setPoint r.point { x with run := x.run + 1, seqRef := some r.seq })))
        ∧ (acceptable → e.recoveryCount ≤ x.run + 1 →
          exec .recordApply s =
            .next
              (arbitrate
                (s.taken.setPoint r.point
                  { x with
                    status := .healthy
                    phase := .idle
                    cause := .none
                    run := 0
                    suspect := 0
                    seqRef := some r.seq })))

/-- A SKIP or SUSPECT request is taken by a HEALTHY point as an entry into FAULTED and dropped by any other (R3, R13, R16,
R24, R40). -/
def Obligations.FaultRequestTakenOrDropped : Prop :=
  ∀ (q : FaultRequest) (s : State), s.pwron = false → s.points.request = some q →
    ((s.point q.point).status = .healthy →
      ∃ u, exec .skipOrSuspectRequestTaken s = .next (arbitrate u)
        ∧ EntersFaulted q.point q.cause { s with points := { s.points with request := none } } u)
      ∧ ((s.point q.point).status ≠ .healthy →
        exec .skipOrSuspectRequestTaken s =
          .next (arbitrate { s with points := { s.points with request := none } }))

/-- A supervision timer that has run its window (R15): a HEALTHY point enters FAULTED(SILENT); a FAULTED point's run becomes
0 and its timer restarts. That the command has no effect before the timer has run out, or at a point that is neither, is the
model's choice (log 2). -/
def Obligations.SupervisionExpires : Prop :=
  ∀ (p : PointIndex) (s : State), s.pwron = false →
    (∀ m, (s.point p).supervision = some m → m.length ≤ (s.now - m.start).toNat →
      ((s.point p).status = .healthy →
        ∃ u, exec (.supervisionExpiry p.val) s = .next (arbitrate u) ∧ EntersFaulted p .silent s u)
        ∧ ((s.point p).status = .faulted →
          exec (.supervisionExpiry p.val) s =
            .next
              (arbitrate
                (s.setPoint p
                  { s.point p with
                    run := 0
                    supervision := (s.pointEntry p).map fun e => { start := s.now, length := e.window * 10 } }))))
      ∧ ((∀ m, (s.point p).supervision = some m → (s.now - m.start).toNat < m.length) →
        exec (.supervisionExpiry p.val) s = .next s)
      ∧ ((s.point p).status ≠ .healthy → (s.point p).status ≠ .faulted →
        exec (.supervisionExpiry p.val) s = .next s)

/-- The start-up limit (R17, R181): every point still STARTING enters FAULTED(START_TIMEOUT) with POINT_FAULT set, every other
point is untouched, and the mode becomes SERVICE. The sections are all DISTURBED in START-UP (R75; Obligations.TrackIsSound)
and stay as they are. That the command has no effect before the limit has run out is the model's choice (log 2). -/
def Obligations.StartUpLimitExpires : Prop :=
  ∀ (m : Timer) (s : State), s.pwron = false → s.tables.mode = .startUp → s.tables.startLimit = some m →
    (m.length ≤ (s.now - m.start).toNat → (∀ i, (s.sect i).state = .disturbed) →
      ∃ u, exec .startUpLimitExpiry s = .next (arbitrate u)
        ∧ u =
          { s with
            points := { s.points with records := u.points.records }
            tables := { s.tables with mode := .service, startLimit := none }
            attention := { s.attention with latches := u.attention.latches } }
        ∧ (∀ p, u.point p =
            if (s.point p).status = .starting then
              { s.point p with
                status := .faulted
                cause := .startTimeout
                run := 0
                seqRef := none
                supervision := (s.pointEntry p).map fun e => { start := s.now, length := e.window * 10 }
                phase := .idle
                lead := none }
            else s.point p)
        ∧ ((∃ p, (s.point p).status = .starting) →
          u.attention.latches = s.attention.latches ||| Latch.pointFault.mask)
        ∧ ((∀ p, (s.point p).status ≠ .starting) → u.attention.latches = s.attention.latches))
      ∧ ((s.now - m.start).toNat < m.length → exec .startUpLimitExpiry s = .next s)

/-! ## The phase machine and speed (chapter 2) -/

/-- A record whose levels are those of the phase is a heartbeat and changes nothing but the sequence reference (R25); one
that differs in both sensors is a SKIP, which changes nothing more and is requested of the Point Supervisor (R23, R24). -/
def Obligations.HeartbeatsAndSkips : Prop :=
  ∀ (r : EventRecord) (s : State), StepsOn r s →
    let u := s.taken.setPoint r.point { s.point r.point with seqRef := some r.seq }
    let levels := (s.point r.point).phase.levels
    (r.s1 = levels.1 → r.s2 = levels.2 → exec .recordApply s = .next (arbitrate u))
      ∧ (r.s1 ≠ levels.1 → r.s2 ≠ levels.2 →
        exec .recordApply s =
          .next
            (arbitrate
              { u with points := { u.points with request := some { point := r.point, cause := .skip } } }))

/-- The steps within a pass (Table 2-4, R22, R27, R29, R30): four change the phase only, two retake the lead, and two measure
the speed, which replaces the last speed. No section is told. -/
def Obligations.StepsWithinAPass : Prop :=
  ∀ (r : EventRecord) (e : PointEntry) (l : Lead) (s : State), StepsOn r s → s.pointEntry r.point = some e →
    (s.point r.point).lead = some l →
      let x : PointRecord := { s.point r.point with seqRef := some r.seq }
      let becomes := fun y : PointRecord => exec .recordApply s = .next (arbitrate (s.taken.setPoint r.point y))
      (x.phase = .up1 → r.s1 = true → r.s2 = true →
        becomes { x with phase := .up2, lastSpeed := measureSpeed l r.tick r.arrival e.spacing })
        ∧ (x.phase = .up2 → r.s1 = true → r.s2 = false →
          becomes { x with phase := .up1, lead := some { tick := r.tick, arrival := r.arrival } })
        ∧ (x.phase = .up2 → r.s1 = false → r.s2 = true → becomes { x with phase := .up3 })
        ∧ (x.phase = .up3 → r.s1 = true → r.s2 = true → becomes { x with phase := .up2 })
        ∧ (x.phase = .dn1 → r.s1 = true → r.s2 = true →
          becomes { x with phase := .dn2, lastSpeed := measureSpeed l r.tick r.arrival e.spacing })
        ∧ (x.phase = .dn2 → r.s1 = false → r.s2 = true →
          becomes { x with phase := .dn1, lead := some { tick := r.tick, arrival := r.arrival } })
        ∧ (x.phase = .dn2 → r.s1 = true → r.s2 = false → becomes { x with phase := .dn3 })
        ∧ (x.phase = .dn3 → r.s1 = true → r.s2 = true → becomes { x with phase := .dn2 })

/-- The speed from a lead to a record (R31, R32, R33), with the spans modulo 2^32 and 65536: creep gives 0, equal ticks give
4000, and else spacing times 1800 over the tick span, truncated and limited to 4000. A spacing of 40..400 never measures 0
outside creep, and reaches 4000 exactly up to a span of 0.45 times the spacing. -/
def Obligations.SpeedMeasured : Prop :=
  ∀ (l : Lead) (tick : HeadTick) (arrival : Time) (spacing : Nat),
    let speed := measureSpeed l tick arrival spacing
    let arrivalSpan := (arrival.toNat + 4294967296 - l.arrival.toNat) % 4294967296
    let tickSpan := (tick.toNat + 65536 - l.tick.toNat) % 65536
    (1200 ≤ arrivalSpan → speed = 0)
      ∧ (arrivalSpan < 1200 → tickSpan = 0 → speed = 4000)
      ∧ (arrivalSpan < 1200 → tickSpan ≠ 0 → speed = min 4000 (spacing * 1800 / tickSpan))
      ∧ (arrivalSpan < 1200 → 40 ≤ spacing → 1 ≤ speed)
      ∧ (arrivalSpan < 1200 → tickSpan ≠ 0 → (speed = 4000 ↔ 100 * tickSpan ≤ 45 * spacing))
      ∧ speed ≤ 4000
      ∧ (l.arrival = 4294967000 → arrival = 300 → arrivalSpan = 596)

/-- A wheel that covers the first sensor, or withdraws from it, changes the phase and the lead and lets the sections on both
sides re-derive their occupancy; it counts nothing and leaves speed, direction and suspect counter alone (R22, R26, R29,
R34, R35, R47, R56). -/
def Obligations.WheelArrivesOrRollsBack : Prop :=
  ∀ (r : EventRecord) (s : State), StepsOn r s →
    let x : PointRecord := { s.point r.point with seqRef := some r.seq }
    let announces := fun y : PointRecord =>
      ∃ u, exec .recordApply s = .next (arbitrate u)
        ∧ u =
          { s.taken with
            points := { s.taken.points with records := u.points.records }
            sections := u.sections
            peer := u.peer
            reports := u.reports }
        ∧ (∀ q, u.point q = if q = r.point then y else s.point q)
        ∧ Reoccupies (s.sidesOf r.point) s u
    (x.phase = .idle → r.s1 = true → r.s2 = false →
      announces { x with phase := .up1, lead := some { tick := r.tick, arrival := r.arrival } })
      ∧ (x.phase = .idle → r.s1 = false → r.s2 = true →
        announces { x with phase := .dn1, lead := some { tick := r.tick, arrival := r.arrival } })
      ∧ (x.phase = .up1 ∨ x.phase = .dn1 → r.s1 = false → r.s2 = false →
        announces { x with phase := .idle, lead := none })

/-- A completed pass (R36): the phase is IDLE and the lead cleared, the direction is kept, each section of the point takes its
count change and re-derives its occupancy once (Table 3-3, Table 3-7, R50..R55, R57..R60, R64), and the pass is judged
on the last speed (R37..R40): above the ceiling the suspect counter rises, and at the limit it is set to 0 and
FAULTED(SUSPECT) is requested; else it falls, not below 0. A counter that would be above the limit
counts as at it (log 23). The two sides of a point are never one section (R46; Obligations.TrackIsSound). -/
def Obligations.PassCompleted : Prop :=
  ∀ (r : EventRecord) (d : Direction) (e : PointEntry) (s : State), StepsOn r s → s.pointEntry r.point = some e →
    (s.point r.point).phase = .up3 ∧ d = .up ∨ (s.point r.point).phase = .dn3 ∧ d = .down →
    r.s1 = false → r.s2 = false →
    ((s.sides r.point).sideA = none ∨ (s.sides r.point).sideA ≠ (s.sides r.point).sideB) →
      let x := s.point r.point
      ∃ u, exec .recordApply s = .next (arbitrate u)
        ∧ u =
          { s.taken with
            points := { s.taken.points with records := u.points.records, request := u.points.request }
            sections := u.sections
            peer := u.peer
            reports := u.reports
            attention :=
              { s.attention with
                latches := s.attention.latches ||| entryLatch (s.sidesOf r.point) s u } }
        ∧ Counts r.point d s u
        ∧ (∀ q, q ≠ r.point → u.point q = s.point q)
        ∧ u.point r.point =
          { x with
            phase := .idle
            lead := none
            lastDirection := some d
            seqRef := some r.seq
            suspect := (u.point r.point).suspect }
        ∧ (x.lastSpeed ≤ e.ceiling →
          (u.point r.point).suspect = x.suspect - 1 ∧ u.points.request = s.points.request)
        ∧ (e.ceiling < x.lastSpeed → x.suspect + 1 < e.suspectLimit →
          (u.point r.point).suspect = x.suspect + 1 ∧ u.points.request = s.points.request)
        ∧ (e.ceiling < x.lastSpeed → e.suspectLimit ≤ x.suspect + 1 →
          (u.point r.point).suspect = 0
            ∧ u.points.request = some { point := r.point, cause := .suspect })

/-! ## Sections and the peer (chapters 3 to 5) -/

/-- The settle timer has run its time (R59, R61, R62, R109, R110): without a peer address the section becomes CLEAR; with one
it enters AWAIT_PEER, and goes on to CLEAR in the same action, with a second serial step, when the peer is PRESENT and its
entry shows AWAIT_PEER or CLEAR and is no older than the silence limit. That the command has no effect before the timer has
run out is the model's choice (log 2). -/
def Obligations.SettleTimerExpires : Prop :=
  ∀ (i : SectionIndex) (m : Timer) (s : State), s.pwron = false → (s.sect i).state = .settling →
    (s.sect i).settle = some m →
      let granted :=
        s.sectionConfigured i = true ∧ s.peer.state = .present
          ∧ ∃ r e, s.tables.params = some r ∧ s.peerEntry i = some e
            ∧ (e.state = .awaitPeer ∨ e.state = .clear) ∧ (s.now - e.arrival).toNat ≤ r.silenceLimit * 100
      let becomes := fun (st : SectionState) (steps : Byte) =>
        ∃ u, exec (.settleTimerExpiry i.val) s = .next (arbitrate u)
          ∧ u = { s with sections := u.sections, peer := u.peer, reports := u.reports }
          ∧ (∀ j, u.sect j =
              if j = i then { s.sect i with state := st, serial := (s.sect i).serial + steps, settle := none }
              else s.sect j)
          ∧ u.sections.sideMap = s.sections.sideMap
          ∧ Told [i] s u
      ((s.now - m.start).toNat < m.length → exec (.settleTimerExpiry i.val) s = .next s)
        ∧ (m.length ≤ (s.now - m.start).toNat → s.peerAddress = 0 → becomes .clear 1)
        ∧ (m.length ≤ (s.now - m.start).toNat → s.peerAddress ≠ 0 → granted → becomes .clear 2)
        ∧ (m.length ≤ (s.now - m.start).toNat → s.peerAddress ≠ 0 → ¬granted → becomes .awaitPeer 1)

/-- The compare timer has run its window (R104, R106, R65, R70): it stops; a DISTURBED section is left as it is, any other
enters DISTURBED(PEER_MISMATCH), is told about and evaluated again at once. That the command has no effect before the timer
has run out is the model's choice (log 2). -/
def Obligations.CompareTimerExpires : Prop :=
  ∀ (i : SectionIndex) (m : Timer) (s : State), s.pwron = false → s.compareTimer i = some m →
    ((s.now - m.start).toNat < m.length → exec (.compareTimerExpiry i.val) s = .next s)
      ∧ (m.length ≤ (s.now - m.start).toNat → (s.sect i).state = .disturbed →
        exec (.compareTimerExpiry i.val) s = .next (arbitrate (s.setCompare i none)))
      ∧ (m.length ≤ (s.now - m.start).toNat → (s.sect i).state ≠ .disturbed →
        ∃ u, exec (.compareTimerExpiry i.val) s = .next (arbitrate u)
          ∧ u =
            { s with
              sections := u.sections
              peer := u.peer
              reports := u.reports
              attention :=
                { s.attention with latches := s.attention.latches ||| Latch.sectionDisturbed.mask } }
          ∧ Disturbs .peerMismatch [i] (s.setCompare i none) u)

/-- Disagreement about a section (R103) is exactly: configured, the peer PRESENT, an entry held, and either exactly one of
the two DISTURBED or neither and the counts different. -/
def Obligations.DisagreementDefined : Prop :=
  ∀ (i : SectionIndex) (s : State),
    s.disagree i = true ↔
      s.sectionConfigured i = true ∧ s.peer.state = .present
        ∧ ∃ e, s.peerEntry i = some e
          ∧ (¬((s.sect i).state = .disturbed ↔ e.state = .disturbed)
            ∨ (s.sect i).state ≠ .disturbed ∧ e.state ≠ .disturbed ∧ (s.sect i).count ≠ e.count)

/-- A partner report in START-UP or SERVICE (R95, R96, R98, R99, Table 5-2), whatever its destination, restarts the silence
timer; with another version the peer is MISMATCHED, PEER_CONFIG is set and entries and compare timers are cleared, unless it was
MISMATCHED already; with the own version it is PRESENT and the entries are taken one after another, each as
Obligations.ReportEntryTaken says. The report goes on round the ring unless it is addressed to the own address; a full forward
buffer takes nothing from the snoop (R134, R135, R137). -/
def Obligations.PartnerReportTaken : Prop :=
  ∀ (t : Telegram) (p : ParamRecord) (r : Report) (s : State), Receives t s → t.kind = 0x42 →
    s.tables.params = some p → p.peerAddress ≠ 0 → t.source = p.peerAddress → t.source ≠ s.ring.ownAddress →
    s.tables.mode ≠ .config → CarriesReport t.payload r →
      let silence : Option Timer := some { start := s.now, length := p.silenceLimit * 100 }
      (r.version = s.tables.version →
        exec .completesReception s =
          .next
            (arbitrate
              ((r.entries.foldl takeEntry
                  { s.gapSeen with peer := { s.peer with silence := silence, state := .present } }).placed t)))
        ∧ (r.version ≠ s.tables.version → s.peer.state = .mismatched →
          exec .completesReception s =
            .next
              (arbitrate ({ s.gapSeen with peer := { s.peer with silence := silence } }.placed t)))
        ∧ (r.version ≠ s.tables.version → s.peer.state ≠ .mismatched →
          exec .completesReception s =
            .next
              (arbitrate
                ({ s.gapSeen with
                    peer :=
                      { state := .mismatched
                        silence := silence
                        entries := Vector.replicate 32 none
                        compare := Vector.replicate 32 none }
                    attention :=
                      { s.attention with latches := s.attention.latches ||| Latch.peerConfig.mask } }.placed t)))

/-- One entry of a report, taken while the peer is PRESENT (R102, R105, R111, R62): an unused section is skipped; the entry
replaces the one held, the section is evaluated, and a section in AWAIT_PEER goes to CLEAR when the entry shows AWAIT_PEER
or CLEAR; any other section stays as it is. -/
def Obligations.ReportEntryTaken : Prop :=
  ∀ (e : ReportEntry) (s : State), s.peer.state = .present → s.tables.params ≠ none →
    (s.sectionConfigured e.index = false → takeEntry s e = s)
      ∧ (s.sectionConfigured e.index = true →
        let u := takeEntry s e
        let grants := (s.sect e.index).state = .awaitPeer ∧ (e.state = .awaitPeer ∨ e.state = .clear)
        u = { s with sections := u.sections, peer := u.peer, reports := u.reports }
          ∧ (∀ j, u.peerEntry j =
              if j = e.index then
                some { state := e.state, count := e.count, serial := e.serial, arrival := s.now }
              else s.peerEntry j)
          ∧ u.peer.state = .present ∧ u.peer.silence = s.peer.silence
          ∧ (∀ j, u.compareTimer j =
              if j = e.index then if u.disagree j then (s.compareTimer j).or s.freshCompare else none
              else s.compareTimer j)
          ∧ u.sections.sideMap = s.sections.sideMap
          ∧ (grants →
            Queues [e.index] s u
              ∧ ∀ j, u.sect j =
                if j = e.index then { s.sect j with state := .clear, serial := (s.sect j).serial + 1 }
                else s.sect j)
          ∧ (¬grants → u.sections = s.sections ∧ u.reports = s.reports))

/-- The peer silence timer has run the silence limit (R99): the peer is ABSENT, every entry is cleared, every timer of the
comparator is stopped and PEER_LOST is set; no section changes. That the command has no effect before the timer has run out
is the model's choice (log 2). -/
def Obligations.PeerSilenceExpires : Prop :=
  ∀ (m : Timer) (s : State), s.pwron = false → s.peer.silence = some m →
    ((s.now - m.start).toNat < m.length → exec .peerSilenceExpiry s = .next s)
      ∧ (m.length ≤ (s.now - m.start).toNat →
        exec .peerSilenceExpiry s =
          .next
            { s with
              peer :=
                { state := .absent
                  silence := none
                  entries := Vector.replicate 32 none
                  compare := Vector.replicate 32 none }
              attention := { s.attention with latches := s.attention.latches ||| Latch.peerLost.mask } })

/-! ## Reports (chapter 6) -/

/-- The cycle timer has run its period (R114, R117, R118, R120): the first configured index from the cycle pointer upward,
wrapping from 31 to 0, is queued; the pointer moves past it and the timer reloads with the period held. The hold timer has
run the report hold: it is expired (R120). Either may make the queue eligible (R121). That neither command has an effect
before its timer has run out is the model's choice (log 2). -/
def Obligations.ReportTimersExpire : Prop :=
  ∀ (m : Timer) (s : State), s.pwron = false →
    (∀ (r : ParamRecord) (k : SectionIndex), s.tables.params = some r → s.tables.sections ≠ [] →
      s.reports.cycleTimer = some m →
        ((s.now - m.start).toNat < m.length → exec .cycleStep s = .next s)
          ∧ (m.length ≤ (s.now - m.start).toNat →
            s.sectionConfigured (s.reports.cyclePointer + k) = true →
            (∀ j, j < k → s.sectionConfigured (s.reports.cyclePointer + j) = false) →
              let found := s.reports.cyclePointer + k
              exec .cycleStep s =
                .next
                  (arbitrate
                    { s with
                      reports :=
                        { queue := s.reports.queue ++ s.newcomers [found]
                          cyclePointer := found + 1
                          cycleTimer := some { start := s.now, length := r.cyclePeriod * 10 }
                          hold :=
                            if s.reports.queue = [] ∧ s.newcomers [found] ≠ [] then
                              .running { start := s.now, length := r.reportHold }
                            else s.reports.hold } })))
      ∧ (s.reports.hold = .running m →
        ((s.now - m.start).toNat < m.length → exec .holdTimerExpiry s = .next s)
          ∧ (m.length ≤ (s.now - m.start).toNat →
            exec .holdTimerExpiry s =
              .next (arbitrate { s with reports := { s.reports with hold := .expired } })))

/-! ## Requests (chapters 8 to 10)

A request comes to the own address, or to the pair address, from where it is also forwarded (`Consumes`, `State.handed`). -/

/-- Authority and admission (R155, R156, R158): an unauthorised request sets AUTH, one that finds 4 places held sets
REQUEST_DROPPED, and neither does anything else. Authority is as Table 9-1 gives. -/
def Obligations.RequestAuthorityAndAdmission : Prop :=
  ∀ (source : Byte) (payload : List Byte) (t : Telegram) (s : State), Consumes source payload t s →
    let authorised := s.authorised { source := source, payload := payload } = true
    let operator := ∃ c rest, payload = c :: rest ∧ c ∈ ([0x01, 0x02, 0x03, 0x04, 0x05] : List Byte)
    (s.tables.params = none → (authorised ↔ source ≠ 0 ∧ source ≠ 255))
      ∧ (∀ r, s.tables.params = some r →
        (authorised ↔
          source ≠ 0 ∧ source ≠ 255
            ∧ (source = r.maintenanceAddress ∨ source = r.interlockingAddress ∧ operator)))
      ∧ (¬authorised →
        exec .completesReception s =
          .next
            (arbitrate
              { s.handed t with
                attention := { s.attention with latches := s.attention.latches ||| Latch.auth.mask } }))
      ∧ (authorised → 4 ≤ s.requests.answers.length →
        exec .completesReception s =
          .next
            (arbitrate
              { s.handed t with
                attention := { s.attention with latches := s.attention.latches ||| Latch.requestDropped.mask } }))

/-- Form and activation in flight (R151, R155, R159): a Length of 0 or 1 discards the request; an unknown code, a wrong Length
and, while an activation is in flight, every request but READ_STATUS and RESTART are answered without data; nothing but
the answer queue changes. -/
def Obligations.RequestFormChecked : Prop :=
  ∀ (source : Byte) (payload : List Byte) (t : Telegram) (s : State), Takes source payload t s →
    (payload.length < 2 → exec .completesReception s = .next (arbitrate (s.handed t)))
      ∧ ∀ code tag ps, payload = code :: tag :: ps →
        let answers := fun o : AnswerOutcome =>
          exec .completesReception s = .next (arbitrate ((s.handed t).plusAnswer (reply source code tag o [])))
        (code ∉ requestCodes → answers .unknownRequest)
          ∧ (code ∈ requestCodes → requestLength code ps.head? ≠ some payload.length → answers .badLength)
          ∧ (code ∈ requestCodes → requestLength code ps.head? = some payload.length →
            s.requests.activation ≠ none → code ≠ 0x01 → code ≠ 0x30 → answers .busy)

/-- The reading requests change nothing but the answer queue (R160, R161, R162), and their answers carry what Table 8-16
gives: READ_STATUS in every mode and while an activation is in flight, READ_SECTION of a configured section, READ_POINT of
any index up to 47; every other index is BAD_INDEX. The settle byte is the time left in 100 ms steps, rounded up, 1..255 while
the timer runs and 0 while it is stopped (R59); that it is 1 at the moment of expiry is deduced (log 25), and so is that a
table is held when it has an entry (log 27). -/
def Obligations.ReadRequestsAnswered : Prop :=
  ∀ (source tag x : Byte) (t : Telegram) (s : State),
    let answers := fun (code : Byte) (o : AnswerOutcome) (data : List Byte) =>
      exec .completesReception s = .next (arbitrate ((s.handed t).plusAnswer (reply source code tag o data)))
    (Takes source [0x01, tag] t s →
      answers 0x01 .done
        ([s.tables.mode.code] ++ twoBytes s.attention.latches.toNat ++ twoBytes s.attention.mask.toNat
          ++ [s.peer.state.code, s.ring.loop.code] ++ twoBytes s.tables.version.toNat
          ++ (match s.tables.load with
            | none => [0, 0, 0]
            | some l => [l.staged.code, byte l.count, byte l.staged.size])
          ++ [if s.requests.activation = none then 0 else 1,
              byte
                ((if s.tables.points = [] then 0 else 1) + (if s.tables.sections = [] then 0 else 2)
                  + (if s.tables.params = none then 0 else 4) + (if s.tables.activated then 8 else 0))]))
      ∧ (Takes source [0x02, tag, x] t s → s.requests.activation = none →
        (∀ i : SectionIndex, x.toNat = i.val → s.sectionConfigured i = true →
          answers 0x02 .done
            ([x, (s.sect i).state.code] ++ twoBytes (s.sect i).count
              ++ [(s.sect i).serial, (s.sect i).cause.code, byte (settleSteps (s.sect i).settle s.now),
                  if s.compareTimer i = none then 0 else 1]
              ++ (match s.peerEntry i with
                | none => [0, 0, 0, 0, 0, 0]
                | some e =>
                  [1, e.state.code] ++ twoBytes e.count
                    ++ [e.serial, byte (min 255 ((s.now - e.arrival).toNat / 100))])))
          ∧ ((∀ i : SectionIndex, x.toNat = i.val → s.sectionConfigured i = false) → answers 0x02 .badIndex [x]))
      ∧ (Takes source [0x03, tag, x] t s → s.requests.activation = none →
        (∀ p : PointIndex, x.toNat = p.val →
          answers 0x03 .done
            ([x, (s.point p).status.code, (s.point p).phase.code, (s.point p).cause.code, byte (s.point p).run]
              ++ twoBytes (s.point p).lastSpeed
              ++ [match (s.point p).lastDirection with
                  | none => 0
                  | some .up => 1
                  | some .down => 2,
                  byte (s.point p).suspect]
              ++ (match (s.point p).seqRef with
                | none => [0, 0]
                | some q => [1, q])))
          ∧ (48 ≤ x.toNat → answers 0x03 .badIndex [x]))
      ∧ settleSteps none s.now = 0
      ∧ ∀ m : Timer,
        let steps := settleSteps (some m) s.now
        let left := m.length - (s.now - m.start).toNat
        (0 < left → 100 * steps < left + 100 ∧ left ≤ 100 * steps)
          ∧ (left = 0 → steps = 1)
          ∧ (m.length ≤ 25500 → 1 ≤ steps ∧ steps ≤ 255)

/-- ACK_ATTENTION clears exactly the latches its mask names and answers what is left; SET_ALARM_MASK replaces the mask and
answers it; CLEAR_SUSPECT sets one configured point's suspect counter to 0 (R41, R163, R166, R167). -/
def Obligations.AttentionAndSuspectRequests : Prop :=
  ∀ (source tag x y : Byte) (t : Telegram) (s : State), s.requests.activation = none →
    let mask := BitVec.ofNat 13 (x.toNat * 256 + y.toNat)
    (Takes source [0x04, tag, x, y] t s →
      exec .completesReception s =
        .next
          (arbitrate
            ({ s.handed t with
                attention := { s.attention with latches := s.attention.latches &&& ~~~mask } }.plusAnswer
              (reply source 0x04 tag .done (twoBytes (s.attention.latches &&& ~~~mask).toNat)))))
      ∧ (Takes source [0x11, tag, x, y] t s →
        exec .completesReception s =
          .next
            (arbitrate
              ({ s.handed t with attention := { s.attention with mask := mask } }.plusAnswer
                (reply source 0x11 tag .done (twoBytes mask.toNat)))))
      ∧ (Takes source [0x13, tag, x] t s →
        (∀ p : PointIndex, x.toNat = p.val → s.pointConfigured p = true →
          exec .completesReception s =
            .next
              (arbitrate
                (((s.handed t).setPoint p { s.point p with suspect := 0 }).plusAnswer
                  (reply source 0x13 tag .done [x]))))
          ∧ ((∀ p : PointIndex, x.toNat = p.val → s.pointConfigured p = false) →
            exec .completesReception s =
              .next (arbitrate ((s.handed t).plusAnswer (reply source 0x13 tag .badIndex [x])))))

/-- ALARM is asserted exactly when a latch is set whose mask bit is enabled (R168). -/
def Obligations.AlarmFollowsLatchesAndMask : Prop :=
  ∀ s : State, s.alarm = true ↔ ∃ l : Latch, s.latch l = true ∧ s.attention.mask.getLsbD l.bit = true

/-- A restoration request (Table 4-2, Table 4-3, R66, R74..R82): the checks in order, each refusal changing nothing but the
answer queue; DONE sets count 0 and cause NONE, steps the serial, and moves the section to SWEEP_WAIT, or to SETTLING with
its settle timer loaded. Check 3 cannot fail for a request that has passed authority (R77, log 28). -/
def Obligations.RestorationJudged : Prop :=
  ∀ (direct : Bool) (source tag x serial : Byte) (t : Telegram) (s : State),
    Takes source [if direct then 0x12 else 0x05, tag, x, serial] t s → s.requests.activation = none →
      let code : Byte := if direct then 0x12 else 0x05
      let refused := fun (o : AnswerOutcome) (data : List Byte) =>
        exec .completesReception s = .next (arbitrate ((s.handed t).plusAnswer (reply source code tag o data)))
      let ready := fun b : Boundary =>
        (s.point b.point).status = .healthy ∧ (direct = true → (s.point b.point).phase = .idle)
      (s.tables.mode ≠ .service → refused .wrongMode [x])
        ∧ (s.tables.mode = .service →
          ((∀ i : SectionIndex, x.toNat = i.val → s.sectionConfigured i = false) → refused .badIndex [x])
            ∧ ∀ (i : SectionIndex) (e : SectionEntry), x.toNat = i.val → s.sectionEntry i = some e →
              let shown := [x, (s.sect i).state.code, (s.sect i).serial, (s.sect i).cause.code]
              let permitted := direct = true → e.permission = .sweepOrDirect
              (¬permitted → refused .notPermitted shown)
                ∧ (permitted → (s.sect i).state ≠ .disturbed → refused .wrongState shown)
                ∧ (permitted → (s.sect i).state = .disturbed → serial ≠ (s.sect i).serial → refused .stale shown)
                ∧ (permitted → (s.sect i).state = .disturbed → serial = (s.sect i).serial →
                  (∀ earlier b later, e.boundaries = earlier ++ b :: later → (∀ c ∈ earlier, ready c) → ¬ready b →
                    refused .notReady (shown ++ [byte b.point.val]))
                    ∧ ((∀ b ∈ e.boundaries, ready b) →
                      ∃ u, exec .completesReception s =
                          .next
                            (arbitrate
                              (u.plusAnswer
                                (reply source code tag .done
                                  [x, if direct then 5 else 2, (s.sect i).serial + 1, 0])))
                        ∧ u = { s.handed t with sections := u.sections, peer := u.peer, reports := u.reports }
                        ∧ u.sections.sideMap = s.sections.sideMap
                        ∧ Told [i] s u
                        ∧ ∀ j, u.sect j =
                          if j = i then
                            { state := if direct then .settling else .sweepWait
                              count := 0
                              serial := (s.sect i).serial + 1
                              cause := .none
                              settle :=
                                if direct then some { start := s.now, length := e.settleTime * 100 }
                                else (s.sect i).settle }
                          else s.sect j)))

/-- ENTER_CONFIG (R176, R49, R2, R6, R97, R116, R181): in CONFIG it changes nothing but the answer queue; in START-UP and
SERVICE it takes every section out of counting and every point out of use in one action, and keeps the tables, the
version, the side map, the cycle and the Ring Interface. -/
def Obligations.EnterConfigStopsEvaluation : Prop :=
  ∀ (source tag : Byte) (t : Telegram) (s : State), Takes source [0x20, tag] t s → s.requests.activation = none →
    (s.tables.mode = .config →
      exec .completesReception s = .next (arbitrate ((s.handed t).plusAnswer (reply source 0x20 tag .done []))))
      ∧ (s.tables.mode ≠ .config →
        ∃ u, exec .completesReception s = .next (arbitrate (u.plusAnswer (reply source 0x20 tag .done [])))
          ∧ u =
            { s.handed t with
              points := u.points
              sections := u.sections
              peer := u.peer
              reports := u.reports
              tables := { s.tables with mode := .config, activated := false, startLimit := none }
              attention :=
                { s.attention with
                  latches := s.attention.latches ||| entryLatch s.configuredSections s u } }
          ∧ PointsReset .inactive s u
          ∧ PeerReset u
          ∧ Queues s.configuredSections s u
          ∧ u.sections.sideMap = s.sections.sideMap
          ∧ ∀ i, u.sect i =
            if s.sectionConfigured i then
              { state := .disturbed
                count := 0
                serial := if (s.sect i).state = .disturbed then (s.sect i).serial else (s.sect i).serial + 1
                cause := .config
                settle := none }
            else s.sect i)

/-- LOAD_OPEN and LOAD_CLOSE (R172, R175; the data of a LOAD_CLOSE with no load open are the model's, log 11): each refusal
leaves the load as it is; LOAD_OPEN opens an empty load with its idle timer at 5000 ms; LOAD_CLOSE of a complete load puts
its entries in place of the held table, with the effects of Table 10-4 that Obligations.LoadCloseEffects gives. -/
def Obligations.LoadOpenedAndClosed : Prop :=
  ∀ (source tag x n : Byte) (t : Telegram) (s : State), s.requests.activation = none →
    let refused := fun (code : Byte) (o : AnswerOutcome) (data : List Byte) =>
      exec .completesReception s = .next (arbitrate ((s.handed t).plusAnswer (reply source code tag o data)))
    (Takes source [0x21, tag, x, n] t s →
      let valid :=
        x = 1 ∧ 1 ≤ n.toNat ∧ n.toNat ≤ 48 ∨ x = 2 ∧ 1 ≤ n.toNat ∧ n.toNat ≤ 32 ∨ x = 3 ∧ n = 1
      (s.tables.mode ≠ .config → refused 0x21 .wrongMode [x, 255])
        ∧ (s.tables.mode = .config → ∀ l, s.tables.load = some l →
          refused 0x21 .loadBusy [x, byte l.staged.size])
        ∧ (s.tables.mode = .config → s.tables.load = none → ¬valid → refused 0x21 .badField [x, 255])
        ∧ (s.tables.mode = .config → s.tables.load = none → valid →
          exec .completesReception s =
            .next
              (arbitrate
                (((s.handed t).setLoad
                    (some
                      { staged := if x = 1 then .points [] else if x = 2 then .sections [] else .parameters []
                        count := n.toNat
                        idle := { start := s.now, length := 5000 } })).plusAnswer
                  (reply source 0x21 tag .done [x, 0])))))
      ∧ (Takes source [0x23, tag] t s →
        (s.tables.load = none → refused 0x23 .noLoad [0, 0, 0])
          ∧ (∀ l, s.tables.load = some l → l.staged.size < l.count →
            refused 0x23 .short [l.staged.code, byte l.staged.size, byte l.count])
          ∧ (∀ l, s.tables.load = some l → l.count ≤ l.staged.size →
            exec .completesReception s =
              .next
                (arbitrate
                  ((closeLoad l.staged (s.handed t)).plusAnswer
                    (reply source 0x23 tag .done [l.staged.code, byte l.staged.size, byte l.count])))))

/-- The effects of a successful LOAD_CLOSE (Table 10-4, R1, R2, R44, R48, R114, R117, R119, R120, R170): POINTS resets the
points to INACTIVE and UNUSED; SECTIONS sets every section DISTURBED(CONFIG) with its serial kept, and drops the unused ones
from the report queue; PARAMETERS replaces the record; the second of the last two to be loaded makes reporting active. That the hold timer stops when this empties the queue, and
that a record in processing and a request not yet taken go with the event queue, is deduced (log 20, log 19). -/
def Obligations.LoadCloseEffects : Prop :=
  ∀ s : State,
    (∀ es, PointsReset .inactive { s with tables := { s.tables with points := es } } (closeLoad (.points es) s)
        ∧ closeLoad (.points es) s =
          { s with
            points := (closeLoad (.points es) s).points
            tables := { s.tables with points := es, load := none } })
      ∧ (∀ es,
        let u := closeLoad (.sections es) s
        let kept := s.reports.queue.filter u.sectionConfigured
        let starts := s.tables.params ≠ none ∧ es ≠ [] ∧ s.tables.sections = []
        u =
            { s with
              sections := u.sections
              reports := u.reports
              tables := { s.tables with sections := es, load := none } }
          ∧ u.sections.sideMap = s.sections.sideMap
          ∧ (∀ i, u.sect i =
              { state := .disturbed, count := 0, serial := (s.sect i).serial, cause := .config, settle := none })
          ∧ u.reports.queue = kept
          ∧ (¬starts →
            u.reports =
              { s.reports with
                queue := kept
                hold := if kept = [] then .stopped else s.reports.hold })
          ∧ (starts → ∀ r, s.tables.params = some r →
            u.reports =
              { queue := kept
                cyclePointer := 0
                cycleTimer := some { start := s.now, length := r.cyclePeriod * 10 }
                hold :=
                  if kept = [] then .stopped else .running { start := s.now, length := r.reportHold } }))
      ∧ (∀ r,
        let u := closeLoad (.parameters [r]) s
        u = { s with reports := u.reports, tables := { s.tables with params := some r, load := none } }
          ∧ (s.tables.params ≠ none ∨ s.tables.sections = [] → u.reports = s.reports)
          ∧ (s.tables.params = none → s.tables.sections ≠ [] →
            u.reports =
              { queue := s.reports.queue
                cyclePointer := 0
                cycleTimer := some { start := s.now, length := r.cyclePeriod * 10 }
                hold :=
                  if s.reports.queue = [] then s.reports.hold
                  else .running { start := s.now, length := r.reportHold } }))

/-- LOAD_ENTRY (R173, R152): no load, count reached, wrong index, bad field, in this order; an entry of the wrong index aborts
the load, every other one that leaves the load open restarts its idle timer, and a good entry is staged at the tail. -/
def Obligations.LoadEntryStaged : Prop :=
  ∀ (source tag x : Byte) (index : Byte) (fields : List Byte) (t : Telegram) (s : State),
    Takes source (0x22 :: tag :: x :: index :: fields) t s →
    requestLength 0x22 (some x) = some (4 + fields.length) → s.requests.activation = none →
      let answers := fun (load : Option Load) (o : AnswerOutcome) (data : List Byte) =>
        exec .completesReception s =
          .next (arbitrate (((s.handed t).setLoad load).plusAnswer (reply source 0x22 tag o data)))
      (s.tables.load = none → answers none .noLoad [index, 255])
        ∧ ∀ l, s.tables.load = some l →
          let idle : Timer := { start := s.now, length := 5000 }
          let checks := entryFieldChecks l.staged (x :: index :: fields)
          (l.count ≤ l.staged.size →
            answers (some { l with idle := idle }) .countDone [index, byte l.staged.size])
            ∧ (l.staged.size < l.count → index.toNat ≠ l.staged.size → answers none .outOfOrder [index, 255])
            ∧ (l.staged.size < l.count → index.toNat = l.staged.size →
              (∀ n, firstBadField checks = some n →
                answers (some { l with idle := idle }) .badField [index, byte l.staged.size, byte n])
                ∧ (firstBadField checks = none →
                  answers (some { l with staged := stageEntry l.staged (x :: index :: fields), idle := idle }) .done
                    [index, byte (l.staged.size + 1)]))

/-- The fields of a LOAD_ENTRY (R151, R152, R173, Tables 1-1, 3-1, 8-14, 10-1): an entry of another table than the open load's
has field 1, its table code, out of range, whatever follows. With the length of the load's table, the checks find no bad field
exactly when the table code names the table of the load and every field is in its range, and then the entry is held as carried;
else they find the first field that is out of its range, in the numbering of R152. -/
def Obligations.EntryFieldsChecked : Prop :=
  (∀ (staged : Staged) (x : Byte) (rest : List Byte),
    x ≠ (match staged with | .points _ => 1 | .sections _ => 2 | .parameters _ => 3) →
      firstBadField (entryFieldChecks staged (x :: rest)) = some 1)
    ∧ (∀ (es : List PointEntry) (x index ha s1 s0 c1 c0 w rc sl : Byte),
      let ps := [x, index, ha, s1, s0, c1, c0, w, rc, sl]
      let e : PointEntry :=
        { headAddress := ha
          spacing := s1.toNat * 256 + s0.toNat
          ceiling := c1.toNat * 256 + c0.toNat
          window := w.toNat
          recoveryCount := rc.toNat
          suspectLimit := sl.toNat }
      (firstBadField (entryFieldChecks (.points es) ps) = none ↔ x = 1 ∧ e.InRange)
        ∧ (∀ n, firstBadField (entryFieldChecks (.points es) ps) = some n ↔
          ¬pointField x e n ∧ ∀ m < n, pointField x e m)
        ∧ stageEntry (.points es) ps = .points (es ++ [e]))
    ∧ (∀ (es : List SectionEntry) (x index k p0 i0 p1 i1 p2 i2 p3 i3 p4 i4 p5 i5 st pm : Byte),
      let slots := [(p0, i0), (p1, i1), (p2, i2), (p3, i3), (p4, i4), (p5, i5)]
      let ps := [x, index, k, p0, i0, p1, i1, p2, i2, p3, i3, p4, i4, p5, i5, st, pm]
      (firstBadField (entryFieldChecks (.sections es) ps) = none ↔
        x = 2 ∧ 1 ≤ k.toNat ∧ k.toNat ≤ 6
          ∧ (∀ b ∈ slots.take k.toNat, b.1.toNat ≤ 47 ∧ (b.2 = 1 ∨ b.2 = 2))
          ∧ 1 ≤ st.toNat ∧ (pm = 1 ∨ pm = 2))
        ∧ (∀ n, firstBadField (entryFieldChecks (.sections es) ps) = some n ↔
          ¬sectionField x k slots st pm n ∧ ∀ m < n, sectionField x k slots st pm m)
        ∧ (firstBadField (entryFieldChecks (.sections es) ps) = none →
          ∃ e : SectionEntry, stageEntry (.sections es) ps = .sections (es ++ [e])
            ∧ e.boundaries.map (fun b => (byte b.point.val, if b.inside = .a then 1 else 2)) = slots.take k.toNat
            ∧ e.settleTime = st.toNat
            ∧ e.permission = if pm = 2 then .sweepOrDirect else .sweepOnly))
    ∧ ∀ (es : List ParamRecord) (x index a b c d tr ho cy si co ro lo hb : Byte),
      let ps := [x, index, a, b, c, d, tr, ho, cy, si, co, ro, lo, hb]
      let e : ParamRecord :=
        { peerAddress := a
          pairAddress := b
          interlockingAddress := c
          maintenanceAddress := d
          reportTrigger := tr.toNat
          reportHold := ho.toNat
          cyclePeriod := cy.toNat
          silenceLimit := si.toNat
          compareWindow := co.toNat
          roundTripLimit := ro.toNat
          loopMissLimit := lo.toNat
          hopBudget := hb }
      (firstBadField (entryFieldChecks (.parameters es) ps) = none ↔ x = 3 ∧ e.InRange)
        ∧ (∀ n, firstBadField (entryFieldChecks (.parameters es) ps) = some n ↔
          ¬paramField x e n ∧ ∀ m < n, paramField x e m)
        ∧ stageEntry (.parameters es) ps = .parameters (es ++ [e])

/-- ACTIVATE and RESTART (R159, R164, R177): ACTIVATE is refused outside CONFIG, with a load open and with version 0; else the
activation is in flight and its answer's place is reserved. RESTART is answered DONE in every mode and in flight, and marks
a restart pending against its own answer unless one is pending. -/
def Obligations.ActivateAndRestartRequests : Prop :=
  ∀ (source tag hi lo : Byte) (t : Telegram) (s : State),
    let version := BitVec.ofNat 16 (hi.toNat * 256 + lo.toNat)
    (Takes source [0x24, tag, hi, lo] t s → s.requests.activation = none →
      let refused := fun o : AnswerOutcome =>
        exec .completesReception s = .next (arbitrate ((s.handed t).plusAnswer (reply source 0x24 tag o [])))
      (s.tables.mode ≠ .config → refused .wrongMode)
        ∧ (s.tables.mode = .config → s.tables.load ≠ none → refused .loadBusy)
        ∧ (s.tables.mode = .config → s.tables.load = none → version = 0 → refused .badField)
        ∧ (s.tables.mode = .config → s.tables.load = none → version ≠ 0 →
          exec .completesReception s =
            .next
              (arbitrate
                { s.handed t with
                  requests :=
                    { s.requests with
                      answers := s.requests.answers ++ [.reserved]
                      activation :=
                        some { version := version, source := source, tag := tag, began := s.now } } })))
      ∧ (Takes source [0x30, tag] t s →
        exec .completesReception s =
          .next
            (arbitrate
              { s.handed t with
                requests :=
                  { s.requests with
                    restartPending := true
                    answers :=
                      s.requests.answers
                        ++ [.formed
                            { destination := source
                              code := 0x30
                              tag := tag
                              outcome := .done
                              data := []
                              restart := !s.requests.restartPending }] } }))

/-- The idle timer of an open load (R174) has run its length (the 5000 ms that Obligations.LoadOpenedAndClosed and
Obligations.LoadEntryStaged start it with): the load is aborted, and nothing else changes. That the command has no effect
before that, or with no load open, is the model's choice (log 2). -/
def Obligations.LoadIdleTimeoutAborts : Prop :=
  ∀ s : State, s.pwron = false →
    (s.tables.load = none → exec .loadIdleTimeout s = .next s)
      ∧ ∀ l, s.tables.load = some l →
        (l.idle.length ≤ (s.now - l.idle.start).toNat → exec .loadIdleTimeout s = .next (s.setLoad none))
          ∧ ((s.now - l.idle.start).toNat < l.idle.length → exec .loadIdleTimeout s = .next s)

/-- Validation passes (R178, Table 10-5) exactly when a parameter record and a section are held, every boundary names a
configured point, no point side is named twice, no section has both sides of a point, every configured point is named, no
two configured points share a head address, and none has the address of a station. When it fails, it gives the code of the
first check that fails and the index of the first item in that check's scan order that fails it. -/
def Obligations.ValidationVerdict : Prop :=
  ∀ s : State,
    (s.validate = none ↔
      ∃ r, s.tables.params = some r
        ∧ s.configuredSections ≠ []
        ∧ (∀ i, ∀ b ∈ s.boundaries i, s.pointConfigured b.point = true)
        ∧ (∀ i, (s.boundaries i).Nodup)
        ∧ (∀ i j, i ≠ j → ∀ b ∈ s.boundaries i, b ∉ s.boundaries j)
        ∧ (∀ i p, ¬({ point := p, inside := .a } ∈ s.boundaries i ∧ { point := p, inside := .b } ∈ s.boundaries i))
        ∧ (∀ p, s.pointConfigured p = true → ∃ i, ∃ b ∈ s.boundaries i, b.point = p)
        ∧ (∀ p q e f, s.pointEntry p = some e → s.pointEntry q = some f → e.headAddress = f.headAddress → p = q)
        ∧ ∀ p e, s.pointEntry p = some e →
          e.headAddress ≠ s.ring.ownAddress ∧ e.headAddress ≠ r.peerAddress ∧ e.headAddress ≠ r.pairAddress
            ∧ e.headAddress ≠ r.interlockingAddress ∧ e.headAddress ≠ r.maintenanceAddress)
      ∧ ∀ code index, s.validate = some (code, index) ↔
        ∃ n, 1 ≤ n ∧ n ≤ 8 ∧ code = byte n ∧ (∀ m, 1 ≤ m → m < n → s.passes m) ∧ s.failsAt n index

/-- The end of an activation (R159, R179, R180): a failed validation is answered INVALID with its code and index and changes
nothing else; a passed one puts the tables into use in one action. Either answer takes the place that was reserved. -/
def Obligations.ActivationEnds : Prop :=
  ∀ (a : Activation) (s : State), s.pwron = false → s.requests.activation = some a →
    let requests := fun (o : AnswerOutcome) (data : List Byte) =>
      ({ s.requests with
        activation := none
        answers := s.requests.answers.erase .reserved ++ [reply a.source 0x24 a.tag o data] } : RequestExecutor)
    (∀ code index, s.validate = some (code, index) →
      exec .activationEnd s = .next (arbitrate { s with requests := requests .invalid [code, index] }))
      ∧ (s.validate = none →
        ∃ u, exec .activationEnd s = .next (arbitrate u)
          ∧ u =
            { s with
              points := u.points
              sections := u.sections
              peer := u.peer
              reports := u.reports
              requests := requests .done (twoBytes a.version.toNat)
              tables :=
                { s.tables with
                  version := a.version
                  activated := true
                  mode := .startUp
                  startLimit := some { start := s.now, length := 10000 } } }
          ∧ PointsReset .starting s u
          ∧ SectionsSet .start s u
          ∧ SideMapSound u
          ∧ PeerReset u
          ∧ u.reports.queue = s.reports.queue ++ s.newcomers s.configuredSections
          ∧ u.reports.hold =
            (if s.reports.queue = [] ∧ s.newcomers s.configuredSections ≠ [] then s.freshHold
            else s.reports.hold)
          ∧ u.reports.cyclePointer = 0
          ∧ u.reports.cycleTimer = s.freshCycle)

/-! ## Invariants: what every step keeps -/

/-- Every step keeps the tables, and an open load, within the ranges of Tables 1-1, 3-1, 10-1 and 10-3 (R1, R44, R170, R173,
R175). -/
def Obligations.TablesStaySound : Prop :=
  ∀ s t : State, TablesSound s → step s = .next t → TablesSound t

/-- Every step keeps every buffer, queue and counter within its size (R6, R114, R131, R137, R141, R142, R144, R158, R159). -/
def Obligations.BuffersStaySound : Prop :=
  ∀ s t : State, BuffersSound s → step s = .next t → BuffersSound t

/-- Every step keeps every point record sound (R2, R9, R15, R18, R20, R21, R24, R30, R38, R40): among others, a point that
is not HEALTHY has phase IDLE, and a lead is held exactly outside IDLE. -/
def Obligations.PointsStaySound : Prop :=
  ∀ s t : State, PointsSound s → step s = .next t → PointsSound t

/-- Every step keeps the proof of CLEAR (R57, with R46, R50, R59, R65, R71, R75, R80, R171): a section is CLEAR only while its
count is 0 and every boundary point is HEALTHY in phase IDLE, and it counts only in SERVICE with every boundary point
HEALTHY. -/
def Obligations.TrackIsSound : Prop :=
  ∀ s t : State, TrackSound s → step s = .next t → TrackSound t

/-- Every step keeps the Peer Comparator sound (R95, R97, R98, R99, R105, R108): entries are held only while the peer is
PRESENT, and a compare timer runs only for a section about which the channels disagree. -/
def Obligations.PeerStaysSound : Prop :=
  ∀ s t : State, PeerSound s → step s = .next t → PeerSound t

/-- Every step leaves the arbiter settled (R139, R140): nothing that may be granted waits at an IDLE transmitter. -/
def Obligations.ArbiterStaysSettled : Prop :=
  ∀ s t : State, ArbiterSettled s → step s = .next t → ArbiterSettled t

/-- The state after reset is sound in every respect, holds the values of R184, R165, R167, R171, R119, R141, R144 and Table
3-6, and asserts ALARM (R168). The own address is the model's choice (log 6) and not part of this. -/
def Obligations.ResetIsSound : Prop :=
  let s := State.reset
  (TablesSound s ∧ BuffersSound s ∧ PointsSound s ∧ TrackSound s ∧ PeerSound s ∧ ArbiterSettled s)
    ∧ s.now = 0 ∧ s.pwron = false ∧ s.alarm = true
    ∧ s.attention = { latches := Latch.powerOn.mask, mask := 0x1FFF }
    ∧ s.tables =
      { points := []
        sections := []
        params := none
        load := none
        activated := false
        version := 0
        mode := .config
        startLimit := none }
    ∧ s.ring.condition = .lineUp ∧ s.ring.activity = .receiving ∧ s.ring.forward = [] ∧ s.ring.ownSeq = 1
    ∧ s.ring.watch = [] ∧ s.ring.missRun = 0 ∧ s.ring.loop = .intact ∧ s.ring.tx = .idle
    ∧ (∀ p, s.point p = PointRecord.initial .unused) ∧ s.points.queue = []
    ∧ (∀ i, s.sect i = { state := .disturbed, count := 0, serial := 0, cause := .config, settle := none })
    ∧ PeerReset s
    ∧ s.reports = { queue := [], cyclePointer := 0, cycleTimer := none, hold := .stopped }
    ∧ s.requests = { answers := [], activation := none, restartPending := false }
end

