-- ==== Sys2Proof/Laws/State.lean ====
section
/-! SUPPORT. One lemma per field per record update: what each named update of the state changes and what it keeps. -/

namespace Sys2Proof.Machine

/-! ## Vectors -/

@[simp] theorem tabulate_get {n : Nat} {α : Type} (f : Fin n → α) (i : Fin n) : (tabulate f).get i = f i := by
  simp only [tabulate, Vector.get, List.getElem_toArray, List.getElem_map, List.getElem_finRange]
  rfl

theorem vector_get_set {n : Nat} {α : Type} (v : Vector α n) (i j : Fin n) (a : α) :
    (v.set i.val a i.isLt).get j = if j = i then a else v.get j := by
  by_cases h : j = i
  · simp [Vector.get_eq_getElem, h]
  · have : i.val ≠ j.val := fun e => h (Fin.ext e.symm)
    simp [Vector.get_eq_getElem, h, Vector.getElem_set_ne, this]

@[simp] theorem vector_get_replicate {n : Nat} {α : Type} (a : α) (i : Fin n) : (Vector.replicate n a).get i = a := by
  simp [Vector.get_eq_getElem]

/-! ## Reading after an update -/

theorem setPoint_point (s : State) (p q : PointIndex) (r : PointRecord) :
    (s.setPoint p r).point q = if q = p then r else s.point q := vector_get_set _ _ _ _

@[simp] theorem setPoint_point_same (s : State) (p : PointIndex) (r : PointRecord) : (s.setPoint p r).point p = r := by
  simp [setPoint_point]

theorem setSect_sect (s : State) (i j : SectionIndex) (r : SectionRecord) :
    (s.setSect i r).sect j = if j = i then r else s.sect j := vector_get_set _ _ _ _

@[simp] theorem setSect_sect_same (s : State) (i : SectionIndex) (r : SectionRecord) : (s.setSect i r).sect i = r := by
  simp [setSect_sect]

theorem setPeerEntry_peerEntry (s : State) (i j : SectionIndex) (e : Option PeerEntry) :
    (s.setPeerEntry i e).peerEntry j = if j = i then e else s.peerEntry j := vector_get_set _ _ _ _

@[simp] theorem setPeerEntry_peerEntry_same (s : State) (i : SectionIndex) (e : Option PeerEntry) :
    (s.setPeerEntry i e).peerEntry i = e := by
  simp [setPeerEntry_peerEntry]

theorem setCompare_compareTimer (s : State) (i j : SectionIndex) (t : Option Timer) :
    (s.setCompare i t).compareTimer j = if j = i then t else s.compareTimer j := vector_get_set _ _ _ _

@[simp] theorem setCompare_compareTimer_same (s : State) (i : SectionIndex) (t : Option Timer) :
    (s.setCompare i t).compareTimer i = t := by
  simp [setCompare_compareTimer]

/-! ## What an update keeps. simp splits each conjunction into one rule per field. -/

@[simp] theorem setPoint_keeps (s : State) (p : PointIndex) (r : PointRecord) :
    (s.setPoint p r).now = s.now ∧ (s.setPoint p r).pwron = s.pwron ∧ (s.setPoint p r).warm = s.warm
      ∧ (s.setPoint p r).ring = s.ring ∧ (s.setPoint p r).sections = s.sections ∧ (s.setPoint p r).peer = s.peer
      ∧ (s.setPoint p r).reports = s.reports ∧ (s.setPoint p r).requests = s.requests
      ∧ (s.setPoint p r).tables = s.tables ∧ (s.setPoint p r).attention = s.attention
      ∧ (s.setPoint p r).freeCount = s.freeCount ∧ (s.setPoint p r).pending = s.pending
      ∧ (s.setPoint p r).points.queue = s.points.queue
      ∧ (s.setPoint p r).points.processing = s.points.processing
      ∧ (s.setPoint p r).points.request = s.points.request := by
  simp [State.setPoint]

@[simp] theorem setSect_keeps (s : State) (i : SectionIndex) (r : SectionRecord) :
    (s.setSect i r).now = s.now ∧ (s.setSect i r).pwron = s.pwron ∧ (s.setSect i r).warm = s.warm
      ∧ (s.setSect i r).ring = s.ring ∧ (s.setSect i r).points = s.points ∧ (s.setSect i r).peer = s.peer
      ∧ (s.setSect i r).reports = s.reports ∧ (s.setSect i r).requests = s.requests
      ∧ (s.setSect i r).tables = s.tables ∧ (s.setSect i r).attention = s.attention
      ∧ (s.setSect i r).freeCount = s.freeCount ∧ (s.setSect i r).pending = s.pending
      ∧ (s.setSect i r).sections.sideMap = s.sections.sideMap := by
  simp [State.setSect]

@[simp] theorem setPeerEntry_keeps (s : State) (i : SectionIndex) (e : Option PeerEntry) :
    (s.setPeerEntry i e).now = s.now ∧ (s.setPeerEntry i e).pwron = s.pwron ∧ (s.setPeerEntry i e).warm = s.warm
      ∧ (s.setPeerEntry i e).ring = s.ring ∧ (s.setPeerEntry i e).points = s.points
      ∧ (s.setPeerEntry i e).sections = s.sections ∧ (s.setPeerEntry i e).reports = s.reports
      ∧ (s.setPeerEntry i e).requests = s.requests ∧ (s.setPeerEntry i e).tables = s.tables
      ∧ (s.setPeerEntry i e).attention = s.attention ∧ (s.setPeerEntry i e).freeCount = s.freeCount
      ∧ (s.setPeerEntry i e).pending = s.pending ∧ (s.setPeerEntry i e).peer.state = s.peer.state
      ∧ (s.setPeerEntry i e).peer.silence = s.peer.silence
      ∧ (s.setPeerEntry i e).peer.compare = s.peer.compare := by
  simp [State.setPeerEntry]

@[simp] theorem setCompare_keeps (s : State) (i : SectionIndex) (t : Option Timer) :
    (s.setCompare i t).now = s.now ∧ (s.setCompare i t).pwron = s.pwron ∧ (s.setCompare i t).warm = s.warm
      ∧ (s.setCompare i t).ring = s.ring ∧ (s.setCompare i t).points = s.points
      ∧ (s.setCompare i t).sections = s.sections ∧ (s.setCompare i t).reports = s.reports
      ∧ (s.setCompare i t).requests = s.requests ∧ (s.setCompare i t).tables = s.tables
      ∧ (s.setCompare i t).attention = s.attention ∧ (s.setCompare i t).freeCount = s.freeCount
      ∧ (s.setCompare i t).pending = s.pending ∧ (s.setCompare i t).peer.state = s.peer.state
      ∧ (s.setCompare i t).peer.silence = s.peer.silence
      ∧ (s.setCompare i t).peer.entries = s.peer.entries := by
  simp [State.setCompare]

@[simp] theorem raise_keeps (s : State) (l : Latch) :
    (s.raise l).now = s.now ∧ (s.raise l).pwron = s.pwron ∧ (s.raise l).warm = s.warm ∧ (s.raise l).ring = s.ring
      ∧ (s.raise l).points = s.points ∧ (s.raise l).sections = s.sections ∧ (s.raise l).peer = s.peer
      ∧ (s.raise l).reports = s.reports ∧ (s.raise l).requests = s.requests ∧ (s.raise l).tables = s.tables
      ∧ (s.raise l).freeCount = s.freeCount ∧ (s.raise l).pending = s.pending
      ∧ (s.raise l).attention.mask = s.attention.mask
      ∧ (s.raise l).attention.latches = s.attention.latches ||| l.mask := by
  simp [State.raise]

@[simp] theorem setLoad_keeps (s : State) (l : Option Load) :
    (s.setLoad l).now = s.now ∧ (s.setLoad l).pwron = s.pwron ∧ (s.setLoad l).warm = s.warm
      ∧ (s.setLoad l).ring = s.ring ∧ (s.setLoad l).points = s.points ∧ (s.setLoad l).sections = s.sections
      ∧ (s.setLoad l).peer = s.peer ∧ (s.setLoad l).reports = s.reports ∧ (s.setLoad l).requests = s.requests
      ∧ (s.setLoad l).attention = s.attention ∧ (s.setLoad l).freeCount = s.freeCount
      ∧ (s.setLoad l).pending = s.pending ∧ (s.setLoad l).tables.points = s.tables.points
      ∧ (s.setLoad l).tables.sections = s.tables.sections ∧ (s.setLoad l).tables.params = s.tables.params
      ∧ (s.setLoad l).tables.load = l ∧ (s.setLoad l).tables.activated = s.tables.activated
      ∧ (s.setLoad l).tables.version = s.tables.version ∧ (s.setLoad l).tables.mode = s.tables.mode
      ∧ (s.setLoad l).tables.startLimit = s.tables.startLimit := by
  simp [State.setLoad]

/-! ## Accessors read only their block -/

theorem point_congr {s t : State} (h : t.points.records = s.points.records) (p : PointIndex) :
    t.point p = s.point p := by simp [State.point, h]

theorem sect_congr {s t : State} (h : t.sections.records = s.sections.records) (i : SectionIndex) :
    t.sect i = s.sect i := by simp [State.sect, h]

theorem sides_congr {s t : State} (h : t.sections.sideMap = s.sections.sideMap) (p : PointIndex) :
    t.sides p = s.sides p := by simp [State.sides, h]

theorem pointEntry_congr {s t : State} (h : t.tables.points = s.tables.points) (p : PointIndex) :
    t.pointEntry p = s.pointEntry p := by simp [State.pointEntry, h]

theorem sectionEntry_congr {s t : State} (h : t.tables.sections = s.tables.sections) (i : SectionIndex) :
    t.sectionEntry i = s.sectionEntry i := by simp [State.sectionEntry, h]

theorem sectionConfigured_congr {s t : State} (h : t.tables.sections = s.tables.sections) (i : SectionIndex) :
    t.sectionConfigured i = s.sectionConfigured i := by simp [State.sectionConfigured, h]

theorem boundaries_congr {s t : State} (h : t.tables.sections = s.tables.sections) (i : SectionIndex) :
    t.boundaries i = s.boundaries i := by simp [State.boundaries, State.sectionEntry, h]

end Sys2Proof.Machine
end

