-- ==== Sys2Proof/Laws/Reports.lean ====
section
/-! SUPPORT. Laws of the Report Scheduler and the arbiter: what each operation keeps (simp splits each conjunction into one rule per item), and
what it does. -/

namespace Sys2Proof.Machine

@[simp] theorem startHold_keeps (s : State) :
    (s.startHold).now = s.now ∧ (s.startHold).pwron = s.pwron ∧ (s.startHold).warm = s.warm
      ∧ (s.startHold).ring = s.ring ∧ (s.startHold).points = s.points ∧ (s.startHold).sections = s.sections
      ∧ (s.startHold).peer = s.peer ∧ (s.startHold).requests = s.requests ∧ (s.startHold).tables = s.tables
      ∧ (s.startHold).attention = s.attention ∧ (s.startHold).freeCount = s.freeCount
      ∧ (s.startHold).pending = s.pending ∧ (s.startHold).reports.cyclePointer = s.reports.cyclePointer
      ∧ (s.startHold).reports.cycleTimer = s.reports.cycleTimer ∧ (s.startHold).reports.queue = s.reports.queue := by
  unfold State.startHold; split <;> simp

@[simp] theorem joinQueue_keeps (s : State) (i : SectionIndex) :
    (s.joinQueue i).now = s.now ∧ (s.joinQueue i).pwron = s.pwron ∧ (s.joinQueue i).warm = s.warm
      ∧ (s.joinQueue i).ring = s.ring ∧ (s.joinQueue i).points = s.points ∧ (s.joinQueue i).sections = s.sections
      ∧ (s.joinQueue i).peer = s.peer ∧ (s.joinQueue i).requests = s.requests ∧ (s.joinQueue i).tables = s.tables
      ∧ (s.joinQueue i).attention = s.attention ∧ (s.joinQueue i).freeCount = s.freeCount
      ∧ (s.joinQueue i).pending = s.pending ∧ (s.joinQueue i).reports.cyclePointer = s.reports.cyclePointer
      ∧ (s.joinQueue i).reports.cycleTimer = s.reports.cycleTimer := by
  unfold State.joinQueue; dsimp only; split <;> simp

@[simp] theorem queueReport_keeps (i : SectionIndex) (s : State) :
    (queueReport i s).now = s.now ∧ (queueReport i s).pwron = s.pwron ∧ (queueReport i s).warm = s.warm
      ∧ (queueReport i s).ring = s.ring ∧ (queueReport i s).points = s.points
      ∧ (queueReport i s).sections = s.sections ∧ (queueReport i s).peer = s.peer
      ∧ (queueReport i s).requests = s.requests ∧ (queueReport i s).tables = s.tables
      ∧ (queueReport i s).attention = s.attention ∧ (queueReport i s).freeCount = s.freeCount
      ∧ (queueReport i s).pending = s.pending ∧ (queueReport i s).reports.cyclePointer = s.reports.cyclePointer
      ∧ (queueReport i s).reports.cycleTimer = s.reports.cycleTimer := by
  unfold queueReport; split <;> simp

@[simp] theorem foldl_queueReport_keeps (l : List SectionIndex) (s : State) :
    (l.foldl (fun t i => queueReport i t) s).now = s.now ∧ (l.foldl (fun t i => queueReport i t) s).pwron = s.pwron
      ∧ (l.foldl (fun t i => queueReport i t) s).warm = s.warm
      ∧ (l.foldl (fun t i => queueReport i t) s).ring = s.ring
      ∧ (l.foldl (fun t i => queueReport i t) s).points = s.points
      ∧ (l.foldl (fun t i => queueReport i t) s).sections = s.sections
      ∧ (l.foldl (fun t i => queueReport i t) s).peer = s.peer
      ∧ (l.foldl (fun t i => queueReport i t) s).requests = s.requests
      ∧ (l.foldl (fun t i => queueReport i t) s).tables = s.tables
      ∧ (l.foldl (fun t i => queueReport i t) s).attention = s.attention
      ∧ (l.foldl (fun t i => queueReport i t) s).freeCount = s.freeCount
      ∧ (l.foldl (fun t i => queueReport i t) s).pending = s.pending
      ∧ (l.foldl (fun t i => queueReport i t) s).reports.cyclePointer = s.reports.cyclePointer
      ∧ (l.foldl (fun t i => queueReport i t) s).reports.cycleTimer = s.reports.cycleTimer := by
  induction l generalizing s with
  | nil => simp
  | cons i l ih => simpa using ih (queueReport i s)

@[simp] theorem queueAllSections_keeps (s : State) :
    (queueAllSections s).now = s.now ∧ (queueAllSections s).pwron = s.pwron ∧ (queueAllSections s).warm = s.warm
      ∧ (queueAllSections s).ring = s.ring ∧ (queueAllSections s).points = s.points
      ∧ (queueAllSections s).sections = s.sections ∧ (queueAllSections s).peer = s.peer
      ∧ (queueAllSections s).requests = s.requests ∧ (queueAllSections s).tables = s.tables
      ∧ (queueAllSections s).attention = s.attention ∧ (queueAllSections s).freeCount = s.freeCount
      ∧ (queueAllSections s).pending = s.pending
      ∧ (queueAllSections s).reports.cyclePointer = s.reports.cyclePointer
      ∧ (queueAllSections s).reports.cycleTimer = s.reports.cycleTimer := by
  simp [queueAllSections]

@[simp] theorem restartCycle_keeps (s : State) :
    (restartCycle s).now = s.now ∧ (restartCycle s).pwron = s.pwron ∧ (restartCycle s).warm = s.warm
      ∧ (restartCycle s).ring = s.ring ∧ (restartCycle s).points = s.points ∧ (restartCycle s).sections = s.sections
      ∧ (restartCycle s).peer = s.peer ∧ (restartCycle s).requests = s.requests ∧ (restartCycle s).tables = s.tables
      ∧ (restartCycle s).attention = s.attention ∧ (restartCycle s).freeCount = s.freeCount
      ∧ (restartCycle s).pending = s.pending ∧ (restartCycle s).reports.queue = s.reports.queue
      ∧ (restartCycle s).reports.hold = s.reports.hold := by
  simp [restartCycle]

@[simp] theorem startReporting_keeps (s : State) :
    (startReporting s).now = s.now ∧ (startReporting s).pwron = s.pwron ∧ (startReporting s).warm = s.warm
      ∧ (startReporting s).ring = s.ring ∧ (startReporting s).points = s.points
      ∧ (startReporting s).sections = s.sections ∧ (startReporting s).peer = s.peer
      ∧ (startReporting s).requests = s.requests ∧ (startReporting s).tables = s.tables
      ∧ (startReporting s).attention = s.attention ∧ (startReporting s).freeCount = s.freeCount
      ∧ (startReporting s).pending = s.pending ∧ (startReporting s).reports.queue = s.reports.queue := by
  unfold startReporting; dsimp only; split <;> simp

@[simp] theorem dropUnusedReports_keeps (s : State) :
    (dropUnusedReports s).now = s.now ∧ (dropUnusedReports s).pwron = s.pwron ∧ (dropUnusedReports s).warm = s.warm
      ∧ (dropUnusedReports s).ring = s.ring ∧ (dropUnusedReports s).points = s.points
      ∧ (dropUnusedReports s).sections = s.sections ∧ (dropUnusedReports s).peer = s.peer
      ∧ (dropUnusedReports s).requests = s.requests ∧ (dropUnusedReports s).tables = s.tables
      ∧ (dropUnusedReports s).attention = s.attention ∧ (dropUnusedReports s).freeCount = s.freeCount
      ∧ (dropUnusedReports s).pending = s.pending
      ∧ (dropUnusedReports s).reports.cyclePointer = s.reports.cyclePointer
      ∧ (dropUnusedReports s).reports.cycleTimer = s.reports.cycleTimer := by
  simp [dropUnusedReports]

@[simp] theorem emptyReports_keeps (s : State) :
    (emptyReports s).now = s.now ∧ (emptyReports s).pwron = s.pwron ∧ (emptyReports s).warm = s.warm
      ∧ (emptyReports s).ring = s.ring ∧ (emptyReports s).points = s.points ∧ (emptyReports s).sections = s.sections
      ∧ (emptyReports s).peer = s.peer ∧ (emptyReports s).requests = s.requests ∧ (emptyReports s).tables = s.tables
      ∧ (emptyReports s).attention = s.attention ∧ (emptyReports s).freeCount = s.freeCount
      ∧ (emptyReports s).pending = s.pending ∧ (emptyReports s).reports.cyclePointer = s.reports.cyclePointer
      ∧ (emptyReports s).reports.cycleTimer = s.reports.cycleTimer := by
  simp [emptyReports]

@[simp] theorem takeFormed_keeps (s : State) :
    (takeFormed s).now = s.now ∧ (takeFormed s).pwron = s.pwron ∧ (takeFormed s).warm = s.warm
      ∧ (takeFormed s).ring = s.ring ∧ (takeFormed s).points = s.points ∧ (takeFormed s).sections = s.sections
      ∧ (takeFormed s).peer = s.peer ∧ (takeFormed s).requests = s.requests ∧ (takeFormed s).tables = s.tables
      ∧ (takeFormed s).attention = s.attention ∧ (takeFormed s).freeCount = s.freeCount
      ∧ (takeFormed s).pending = s.pending ∧ (takeFormed s).reports.cyclePointer = s.reports.cyclePointer
      ∧ (takeFormed s).reports.cycleTimer = s.reports.cycleTimer := by
  simp [takeFormed]

@[simp] theorem cycle_keeps (s : State) :
    (cycle s).now = s.now ∧ (cycle s).pwron = s.pwron ∧ (cycle s).warm = s.warm ∧ (cycle s).ring = s.ring
      ∧ (cycle s).points = s.points ∧ (cycle s).sections = s.sections ∧ (cycle s).peer = s.peer
      ∧ (cycle s).requests = s.requests ∧ (cycle s).tables = s.tables ∧ (cycle s).attention = s.attention
      ∧ (cycle s).freeCount = s.freeCount ∧ (cycle s).pending = s.pending := by
  unfold cycle; split <;> simp

@[simp] theorem holdExpired_keeps (s : State) :
    (holdExpired s).now = s.now ∧ (holdExpired s).pwron = s.pwron ∧ (holdExpired s).warm = s.warm
      ∧ (holdExpired s).ring = s.ring ∧ (holdExpired s).points = s.points ∧ (holdExpired s).sections = s.sections
      ∧ (holdExpired s).peer = s.peer ∧ (holdExpired s).requests = s.requests ∧ (holdExpired s).tables = s.tables
      ∧ (holdExpired s).attention = s.attention ∧ (holdExpired s).freeCount = s.freeCount
      ∧ (holdExpired s).pending = s.pending ∧ (holdExpired s).reports.cyclePointer = s.reports.cyclePointer
      ∧ (holdExpired s).reports.cycleTimer = s.reports.cycleTimer ∧ (holdExpired s).reports.queue = s.reports.queue := by
  simp [holdExpired]

@[simp] theorem sendOwn_keeps (s : State) (k d : Byte) (ps : List Byte) (cls : TxClass) :
    (sendOwn s k d ps cls).now = s.now ∧ (sendOwn s k d ps cls).pwron = s.pwron
      ∧ (sendOwn s k d ps cls).warm = s.warm ∧ (sendOwn s k d ps cls).points = s.points
      ∧ (sendOwn s k d ps cls).sections = s.sections ∧ (sendOwn s k d ps cls).peer = s.peer
      ∧ (sendOwn s k d ps cls).reports = s.reports ∧ (sendOwn s k d ps cls).requests = s.requests
      ∧ (sendOwn s k d ps cls).tables = s.tables ∧ (sendOwn s k d ps cls).attention = s.attention
      ∧ (sendOwn s k d ps cls).freeCount = s.freeCount ∧ (sendOwn s k d ps cls).pending = s.pending
      ∧ (sendOwn s k d ps cls).ring.ownAddress = s.ring.ownAddress
      ∧ (sendOwn s k d ps cls).ring.condition = s.ring.condition
      ∧ (sendOwn s k d ps cls).ring.activity = s.ring.activity
      ∧ (sendOwn s k d ps cls).ring.reception = s.ring.reception
      ∧ (sendOwn s k d ps cls).ring.forward = s.ring.forward ∧ (sendOwn s k d ps cls).ring.watch = s.ring.watch
      ∧ (sendOwn s k d ps cls).ring.missRun = s.ring.missRun ∧ (sendOwn s k d ps cls).ring.loop = s.ring.loop := by
  simp [sendOwn]

@[simp] theorem grantAnswer_keeps (s : State) (a : Answer) (rest : List AnswerPlace) :
    (grantAnswer s a rest).now = s.now ∧ (grantAnswer s a rest).pwron = s.pwron
      ∧ (grantAnswer s a rest).warm = s.warm ∧ (grantAnswer s a rest).points = s.points
      ∧ (grantAnswer s a rest).sections = s.sections ∧ (grantAnswer s a rest).peer = s.peer
      ∧ (grantAnswer s a rest).reports = s.reports ∧ (grantAnswer s a rest).tables = s.tables
      ∧ (grantAnswer s a rest).attention = s.attention ∧ (grantAnswer s a rest).freeCount = s.freeCount
      ∧ (grantAnswer s a rest).pending = s.pending ∧ (grantAnswer s a rest).ring.ownAddress = s.ring.ownAddress
      ∧ (grantAnswer s a rest).ring.condition = s.ring.condition
      ∧ (grantAnswer s a rest).ring.activity = s.ring.activity
      ∧ (grantAnswer s a rest).ring.reception = s.ring.reception
      ∧ (grantAnswer s a rest).ring.forward = s.ring.forward ∧ (grantAnswer s a rest).ring.watch = s.ring.watch
      ∧ (grantAnswer s a rest).ring.missRun = s.ring.missRun ∧ (grantAnswer s a rest).ring.loop = s.ring.loop
      ∧ (grantAnswer s a rest).requests.activation = s.requests.activation
      ∧ (grantAnswer s a rest).requests.restartPending = s.requests.restartPending := by
  simp [grantAnswer]

@[simp] theorem grantReport_keeps (s : State) :
    (grantReport s).now = s.now ∧ (grantReport s).pwron = s.pwron ∧ (grantReport s).warm = s.warm
      ∧ (grantReport s).points = s.points ∧ (grantReport s).sections = s.sections ∧ (grantReport s).peer = s.peer
      ∧ (grantReport s).requests = s.requests ∧ (grantReport s).tables = s.tables
      ∧ (grantReport s).attention = s.attention ∧ (grantReport s).freeCount = s.freeCount
      ∧ (grantReport s).pending = s.pending ∧ (grantReport s).ring.ownAddress = s.ring.ownAddress
      ∧ (grantReport s).ring.condition = s.ring.condition ∧ (grantReport s).ring.activity = s.ring.activity
      ∧ (grantReport s).ring.reception = s.ring.reception ∧ (grantReport s).ring.forward = s.ring.forward
      ∧ (grantReport s).ring.watch = s.ring.watch ∧ (grantReport s).ring.missRun = s.ring.missRun
      ∧ (grantReport s).ring.loop = s.ring.loop ∧ (grantReport s).reports.cyclePointer = s.reports.cyclePointer
      ∧ (grantReport s).reports.cycleTimer = s.reports.cycleTimer := by
  unfold grantReport; split <;> simp

@[simp] theorem grantOwn_keeps (s : State) :
    (grantOwn s).now = s.now ∧ (grantOwn s).pwron = s.pwron ∧ (grantOwn s).warm = s.warm
      ∧ (grantOwn s).points = s.points ∧ (grantOwn s).sections = s.sections ∧ (grantOwn s).peer = s.peer
      ∧ (grantOwn s).tables = s.tables ∧ (grantOwn s).attention = s.attention ∧ (grantOwn s).freeCount = s.freeCount
      ∧ (grantOwn s).pending = s.pending ∧ (grantOwn s).ring.ownAddress = s.ring.ownAddress
      ∧ (grantOwn s).ring.condition = s.ring.condition ∧ (grantOwn s).ring.activity = s.ring.activity
      ∧ (grantOwn s).ring.reception = s.ring.reception ∧ (grantOwn s).ring.forward = s.ring.forward
      ∧ (grantOwn s).ring.watch = s.ring.watch ∧ (grantOwn s).ring.missRun = s.ring.missRun
      ∧ (grantOwn s).ring.loop = s.ring.loop ∧ (grantOwn s).requests.activation = s.requests.activation
      ∧ (grantOwn s).requests.restartPending = s.requests.restartPending
      ∧ (grantOwn s).reports.cyclePointer = s.reports.cyclePointer
      ∧ (grantOwn s).reports.cycleTimer = s.reports.cycleTimer := by
  unfold grantOwn; split
  · split
    · simp
    · split <;> simp
  · simp

@[simp] theorem arbitrate_keeps (s : State) :
    (arbitrate s).now = s.now ∧ (arbitrate s).pwron = s.pwron ∧ (arbitrate s).warm = s.warm
      ∧ (arbitrate s).points = s.points ∧ (arbitrate s).sections = s.sections ∧ (arbitrate s).peer = s.peer
      ∧ (arbitrate s).tables = s.tables ∧ (arbitrate s).attention = s.attention
      ∧ (arbitrate s).freeCount = s.freeCount ∧ (arbitrate s).pending = s.pending
      ∧ (arbitrate s).ring.ownAddress = s.ring.ownAddress ∧ (arbitrate s).ring.condition = s.ring.condition
      ∧ (arbitrate s).ring.activity = s.ring.activity ∧ (arbitrate s).ring.reception = s.ring.reception
      ∧ (arbitrate s).ring.forward = s.ring.forward ∧ (arbitrate s).ring.watch = s.ring.watch
      ∧ (arbitrate s).ring.missRun = s.ring.missRun ∧ (arbitrate s).ring.loop = s.ring.loop
      ∧ (arbitrate s).requests.activation = s.requests.activation
      ∧ (arbitrate s).requests.restartPending = s.requests.restartPending
      ∧ (arbitrate s).reports.cyclePointer = s.reports.cyclePointer
      ∧ (arbitrate s).reports.cycleTimer = s.reports.cycleTimer := by
  unfold arbitrate; split
  · split <;> simp
  · simp

end Sys2Proof.Machine
end

