-- ==== Sys2Proof/Laws/Sections.lean ====
section
/-! SUPPORT. Laws of the Section Counter and the Peer Comparator: what each operation keeps (simp splits each conjunction into one rule per item), and
what it does. -/

namespace Sys2Proof.Machine

@[simp] theorem evaluate_keeps (i : SectionIndex) (s : State) :
    (evaluate i s).now = s.now ∧ (evaluate i s).pwron = s.pwron ∧ (evaluate i s).warm = s.warm
      ∧ (evaluate i s).ring = s.ring ∧ (evaluate i s).points = s.points ∧ (evaluate i s).sections = s.sections
      ∧ (evaluate i s).reports = s.reports ∧ (evaluate i s).requests = s.requests ∧ (evaluate i s).tables = s.tables
      ∧ (evaluate i s).attention = s.attention ∧ (evaluate i s).freeCount = s.freeCount
      ∧ (evaluate i s).pending = s.pending ∧ (evaluate i s).peer.state = s.peer.state
      ∧ (evaluate i s).peer.silence = s.peer.silence ∧ (evaluate i s).peer.entries = s.peer.entries := by
  unfold evaluate; split
  · simp
  · split
    · split <;> simp
    · simp

@[simp] theorem tell_keeps (i : SectionIndex) (s : State) :
    (tell i s).now = s.now ∧ (tell i s).pwron = s.pwron ∧ (tell i s).warm = s.warm ∧ (tell i s).ring = s.ring
      ∧ (tell i s).points = s.points ∧ (tell i s).sections = s.sections ∧ (tell i s).requests = s.requests
      ∧ (tell i s).tables = s.tables ∧ (tell i s).attention = s.attention ∧ (tell i s).freeCount = s.freeCount
      ∧ (tell i s).pending = s.pending ∧ (tell i s).peer.state = s.peer.state
      ∧ (tell i s).peer.silence = s.peer.silence ∧ (tell i s).peer.entries = s.peer.entries
      ∧ (tell i s).reports.cyclePointer = s.reports.cyclePointer
      ∧ (tell i s).reports.cycleTimer = s.reports.cycleTimer := by
  simp [tell]

@[simp] theorem commitSect_keeps (s : State) (i : SectionIndex) (r : SectionRecord) :
    (s.commitSect i r).now = s.now ∧ (s.commitSect i r).pwron = s.pwron ∧ (s.commitSect i r).warm = s.warm
      ∧ (s.commitSect i r).ring = s.ring ∧ (s.commitSect i r).points = s.points
      ∧ (s.commitSect i r).requests = s.requests ∧ (s.commitSect i r).tables = s.tables
      ∧ (s.commitSect i r).attention = s.attention ∧ (s.commitSect i r).freeCount = s.freeCount
      ∧ (s.commitSect i r).pending = s.pending ∧ (s.commitSect i r).sections.sideMap = s.sections.sideMap
      ∧ (s.commitSect i r).peer.state = s.peer.state ∧ (s.commitSect i r).peer.silence = s.peer.silence
      ∧ (s.commitSect i r).peer.entries = s.peer.entries
      ∧ (s.commitSect i r).reports.cyclePointer = s.reports.cyclePointer
      ∧ (s.commitSect i r).reports.cycleTimer = s.reports.cycleTimer := by
  unfold State.commitSect; dsimp only; split <;> simp

@[simp] theorem disturb_keeps (c : SectionCause) (i : SectionIndex) (s : State) :
    (disturb c i s).now = s.now ∧ (disturb c i s).pwron = s.pwron ∧ (disturb c i s).warm = s.warm
      ∧ (disturb c i s).ring = s.ring ∧ (disturb c i s).points = s.points ∧ (disturb c i s).requests = s.requests
      ∧ (disturb c i s).tables = s.tables ∧ (disturb c i s).freeCount = s.freeCount
      ∧ (disturb c i s).pending = s.pending ∧ (disturb c i s).sections.sideMap = s.sections.sideMap
      ∧ (disturb c i s).peer.state = s.peer.state ∧ (disturb c i s).peer.silence = s.peer.silence
      ∧ (disturb c i s).peer.entries = s.peer.entries
      ∧ (disturb c i s).reports.cyclePointer = s.reports.cyclePointer
      ∧ (disturb c i s).reports.cycleTimer = s.reports.cycleTimer
      ∧ (disturb c i s).attention.mask = s.attention.mask := by
  unfold disturb; split <;> simp

@[simp] theorem countAt_keeps (c : CountChange) (i : SectionIndex) (s : State) :
    (countAt c i s).now = s.now ∧ (countAt c i s).pwron = s.pwron ∧ (countAt c i s).warm = s.warm
      ∧ (countAt c i s).ring = s.ring ∧ (countAt c i s).points = s.points ∧ (countAt c i s).requests = s.requests
      ∧ (countAt c i s).tables = s.tables ∧ (countAt c i s).freeCount = s.freeCount
      ∧ (countAt c i s).pending = s.pending ∧ (countAt c i s).sections.sideMap = s.sections.sideMap
      ∧ (countAt c i s).peer.state = s.peer.state ∧ (countAt c i s).peer.silence = s.peer.silence
      ∧ (countAt c i s).peer.entries = s.peer.entries
      ∧ (countAt c i s).reports.cyclePointer = s.reports.cyclePointer
      ∧ (countAt c i s).reports.cycleTimer = s.reports.cycleTimer
      ∧ (countAt c i s).attention.mask = s.attention.mask := by
  unfold countAt; split <;> simp

@[simp] theorem rederive_keeps (i : SectionIndex) (s : State) :
    (rederive i s).now = s.now ∧ (rederive i s).pwron = s.pwron ∧ (rederive i s).warm = s.warm
      ∧ (rederive i s).ring = s.ring ∧ (rederive i s).points = s.points ∧ (rederive i s).requests = s.requests
      ∧ (rederive i s).tables = s.tables ∧ (rederive i s).attention = s.attention
      ∧ (rederive i s).freeCount = s.freeCount ∧ (rederive i s).pending = s.pending
      ∧ (rederive i s).sections.sideMap = s.sections.sideMap ∧ (rederive i s).peer.state = s.peer.state
      ∧ (rederive i s).peer.silence = s.peer.silence ∧ (rederive i s).peer.entries = s.peer.entries
      ∧ (rederive i s).reports.cyclePointer = s.reports.cyclePointer
      ∧ (rederive i s).reports.cycleTimer = s.reports.cycleTimer := by
  simp [rederive]

@[simp] theorem announceOccupancy_keeps (p : PointIndex) (s : State) :
    (announceOccupancy p s).now = s.now ∧ (announceOccupancy p s).pwron = s.pwron
      ∧ (announceOccupancy p s).warm = s.warm ∧ (announceOccupancy p s).ring = s.ring
      ∧ (announceOccupancy p s).points = s.points ∧ (announceOccupancy p s).requests = s.requests
      ∧ (announceOccupancy p s).tables = s.tables ∧ (announceOccupancy p s).attention = s.attention
      ∧ (announceOccupancy p s).freeCount = s.freeCount ∧ (announceOccupancy p s).pending = s.pending
      ∧ (announceOccupancy p s).sections.sideMap = s.sections.sideMap
      ∧ (announceOccupancy p s).peer.state = s.peer.state ∧ (announceOccupancy p s).peer.silence = s.peer.silence
      ∧ (announceOccupancy p s).peer.entries = s.peer.entries
      ∧ (announceOccupancy p s).reports.cyclePointer = s.reports.cyclePointer
      ∧ (announceOccupancy p s).reports.cycleTimer = s.reports.cycleTimer := by
  unfold announceOccupancy atSide; split <;> split <;> simp

@[simp] theorem announcePass_keeps (p : PointIndex) (d : Direction) (s : State) :
    (announcePass p d s).now = s.now ∧ (announcePass p d s).pwron = s.pwron ∧ (announcePass p d s).warm = s.warm
      ∧ (announcePass p d s).ring = s.ring ∧ (announcePass p d s).points = s.points
      ∧ (announcePass p d s).requests = s.requests ∧ (announcePass p d s).tables = s.tables
      ∧ (announcePass p d s).freeCount = s.freeCount ∧ (announcePass p d s).pending = s.pending
      ∧ (announcePass p d s).sections.sideMap = s.sections.sideMap ∧ (announcePass p d s).peer.state = s.peer.state
      ∧ (announcePass p d s).peer.silence = s.peer.silence ∧ (announcePass p d s).peer.entries = s.peer.entries
      ∧ (announcePass p d s).reports.cyclePointer = s.reports.cyclePointer
      ∧ (announcePass p d s).reports.cycleTimer = s.reports.cycleTimer
      ∧ (announcePass p d s).attention.mask = s.attention.mask := by
  unfold announcePass atSide; split <;> split <;> simp

@[simp] theorem faultNotice_keeps (p : PointIndex) (s : State) :
    (faultNotice p s).now = s.now ∧ (faultNotice p s).pwron = s.pwron ∧ (faultNotice p s).warm = s.warm
      ∧ (faultNotice p s).ring = s.ring ∧ (faultNotice p s).points = s.points
      ∧ (faultNotice p s).requests = s.requests ∧ (faultNotice p s).tables = s.tables
      ∧ (faultNotice p s).freeCount = s.freeCount ∧ (faultNotice p s).pending = s.pending
      ∧ (faultNotice p s).sections.sideMap = s.sections.sideMap ∧ (faultNotice p s).peer.state = s.peer.state
      ∧ (faultNotice p s).peer.silence = s.peer.silence ∧ (faultNotice p s).peer.entries = s.peer.entries
      ∧ (faultNotice p s).reports.cyclePointer = s.reports.cyclePointer
      ∧ (faultNotice p s).reports.cycleTimer = s.reports.cycleTimer
      ∧ (faultNotice p s).attention.mask = s.attention.mask := by
  unfold faultNotice atSide; split <;> split <;> simp

@[simp] theorem peerNotice_keeps (i : SectionIndex) (s : State) :
    (peerNotice i s).now = s.now ∧ (peerNotice i s).pwron = s.pwron ∧ (peerNotice i s).warm = s.warm
      ∧ (peerNotice i s).ring = s.ring ∧ (peerNotice i s).points = s.points ∧ (peerNotice i s).requests = s.requests
      ∧ (peerNotice i s).tables = s.tables ∧ (peerNotice i s).attention = s.attention
      ∧ (peerNotice i s).freeCount = s.freeCount ∧ (peerNotice i s).pending = s.pending
      ∧ (peerNotice i s).sections.sideMap = s.sections.sideMap ∧ (peerNotice i s).peer.state = s.peer.state
      ∧ (peerNotice i s).peer.silence = s.peer.silence ∧ (peerNotice i s).peer.entries = s.peer.entries
      ∧ (peerNotice i s).reports.cyclePointer = s.reports.cyclePointer
      ∧ (peerNotice i s).reports.cycleTimer = s.reports.cycleTimer := by
  unfold peerNotice; split <;> simp

@[simp] theorem compareExpired_keeps (i : SectionIndex) (s : State) :
    (compareExpired i s).now = s.now ∧ (compareExpired i s).pwron = s.pwron ∧ (compareExpired i s).warm = s.warm
      ∧ (compareExpired i s).ring = s.ring ∧ (compareExpired i s).points = s.points
      ∧ (compareExpired i s).requests = s.requests ∧ (compareExpired i s).tables = s.tables
      ∧ (compareExpired i s).freeCount = s.freeCount ∧ (compareExpired i s).pending = s.pending
      ∧ (compareExpired i s).sections.sideMap = s.sections.sideMap ∧ (compareExpired i s).peer.state = s.peer.state
      ∧ (compareExpired i s).peer.silence = s.peer.silence ∧ (compareExpired i s).peer.entries = s.peer.entries
      ∧ (compareExpired i s).reports.cyclePointer = s.reports.cyclePointer
      ∧ (compareExpired i s).reports.cycleTimer = s.reports.cycleTimer
      ∧ (compareExpired i s).attention.mask = s.attention.mask := by
  simp [compareExpired]

@[simp] theorem setAllSections_keeps (c : SectionCause) (s : State) :
    (setAllSections c s).now = s.now ∧ (setAllSections c s).pwron = s.pwron ∧ (setAllSections c s).warm = s.warm
      ∧ (setAllSections c s).ring = s.ring ∧ (setAllSections c s).points = s.points
      ∧ (setAllSections c s).peer = s.peer ∧ (setAllSections c s).reports = s.reports
      ∧ (setAllSections c s).requests = s.requests ∧ (setAllSections c s).tables = s.tables
      ∧ (setAllSections c s).attention = s.attention ∧ (setAllSections c s).freeCount = s.freeCount
      ∧ (setAllSections c s).pending = s.pending ∧ (setAllSections c s).sections.sideMap = s.sections.sideMap := by
  simp [setAllSections]

@[simp] theorem setSectionsAtLoad_keeps (s : State) :
    (setSectionsAtLoad s).now = s.now ∧ (setSectionsAtLoad s).pwron = s.pwron ∧ (setSectionsAtLoad s).warm = s.warm
      ∧ (setSectionsAtLoad s).ring = s.ring ∧ (setSectionsAtLoad s).points = s.points
      ∧ (setSectionsAtLoad s).peer = s.peer ∧ (setSectionsAtLoad s).reports = s.reports
      ∧ (setSectionsAtLoad s).requests = s.requests ∧ (setSectionsAtLoad s).tables = s.tables
      ∧ (setSectionsAtLoad s).attention = s.attention ∧ (setSectionsAtLoad s).freeCount = s.freeCount
      ∧ (setSectionsAtLoad s).pending = s.pending ∧ (setSectionsAtLoad s).sections.sideMap = s.sections.sideMap := by
  simp [setSectionsAtLoad]

@[simp] theorem sectionsToConfig_keeps (s : State) :
    (sectionsToConfig s).now = s.now ∧ (sectionsToConfig s).pwron = s.pwron ∧ (sectionsToConfig s).warm = s.warm
      ∧ (sectionsToConfig s).ring = s.ring ∧ (sectionsToConfig s).points = s.points
      ∧ (sectionsToConfig s).peer = s.peer ∧ (sectionsToConfig s).requests = s.requests
      ∧ (sectionsToConfig s).tables = s.tables ∧ (sectionsToConfig s).freeCount = s.freeCount
      ∧ (sectionsToConfig s).pending = s.pending ∧ (sectionsToConfig s).sections.sideMap = s.sections.sideMap
      ∧ (sectionsToConfig s).reports.cyclePointer = s.reports.cyclePointer
      ∧ (sectionsToConfig s).reports.cycleTimer = s.reports.cycleTimer
      ∧ (sectionsToConfig s).attention.mask = s.attention.mask := by
  unfold sectionsToConfig; dsimp only; split <;> simp

@[simp] theorem buildSideMap_keeps (s : State) :
    (buildSideMap s).now = s.now ∧ (buildSideMap s).pwron = s.pwron ∧ (buildSideMap s).warm = s.warm
      ∧ (buildSideMap s).ring = s.ring ∧ (buildSideMap s).points = s.points ∧ (buildSideMap s).peer = s.peer
      ∧ (buildSideMap s).reports = s.reports ∧ (buildSideMap s).requests = s.requests
      ∧ (buildSideMap s).tables = s.tables ∧ (buildSideMap s).attention = s.attention
      ∧ (buildSideMap s).freeCount = s.freeCount ∧ (buildSideMap s).pending = s.pending
      ∧ (buildSideMap s).sections.records = s.sections.records := by
  simp [buildSideMap]

@[simp] theorem peerReset_keeps (s : State) :
    (peerReset s).now = s.now ∧ (peerReset s).pwron = s.pwron ∧ (peerReset s).warm = s.warm
      ∧ (peerReset s).ring = s.ring ∧ (peerReset s).points = s.points ∧ (peerReset s).sections = s.sections
      ∧ (peerReset s).reports = s.reports ∧ (peerReset s).requests = s.requests ∧ (peerReset s).tables = s.tables
      ∧ (peerReset s).attention = s.attention ∧ (peerReset s).freeCount = s.freeCount
      ∧ (peerReset s).pending = s.pending := by
  simp [peerReset]

end Sys2Proof.Machine
end

