-- ==== Sys2Proof/Laws/Points.lean ====
section
/-! SUPPORT. Laws of the Point Supervisor and the Discriminator: what each operation keeps (simp splits each conjunction into one rule per item), and
what it does. -/

namespace Sys2Proof.Machine

@[simp] theorem enterFaulted_keeps (p : PointIndex) (c : FaultCause) (s : State) :
    (enterFaulted p c s).now = s.now ∧ (enterFaulted p c s).pwron = s.pwron ∧ (enterFaulted p c s).warm = s.warm
      ∧ (enterFaulted p c s).ring = s.ring ∧ (enterFaulted p c s).requests = s.requests
      ∧ (enterFaulted p c s).tables = s.tables ∧ (enterFaulted p c s).freeCount = s.freeCount
      ∧ (enterFaulted p c s).pending = s.pending ∧ (enterFaulted p c s).points.queue = s.points.queue
      ∧ (enterFaulted p c s).points.processing = s.points.processing
      ∧ (enterFaulted p c s).points.request = s.points.request
      ∧ (enterFaulted p c s).sections.sideMap = s.sections.sideMap ∧ (enterFaulted p c s).peer.state = s.peer.state
      ∧ (enterFaulted p c s).peer.silence = s.peer.silence ∧ (enterFaulted p c s).peer.entries = s.peer.entries
      ∧ (enterFaulted p c s).reports.cyclePointer = s.reports.cyclePointer
      ∧ (enterFaulted p c s).reports.cycleTimer = s.reports.cycleTimer
      ∧ (enterFaulted p c s).attention.mask = s.attention.mask := by
  simp [enterFaulted]

@[simp] theorem enterService_keeps (s : State) :
    (enterService s).now = s.now ∧ (enterService s).pwron = s.pwron ∧ (enterService s).warm = s.warm
      ∧ (enterService s).ring = s.ring ∧ (enterService s).points = s.points ∧ (enterService s).sections = s.sections
      ∧ (enterService s).peer = s.peer ∧ (enterService s).reports = s.reports
      ∧ (enterService s).requests = s.requests ∧ (enterService s).attention = s.attention
      ∧ (enterService s).freeCount = s.freeCount ∧ (enterService s).pending = s.pending
      ∧ (enterService s).tables.points = s.tables.points ∧ (enterService s).tables.sections = s.tables.sections
      ∧ (enterService s).tables.params = s.tables.params ∧ (enterService s).tables.load = s.tables.load
      ∧ (enterService s).tables.activated = s.tables.activated ∧ (enterService s).tables.version = s.tables.version := by
  simp [enterService]

@[simp] theorem reportDeparture_keeps (s : State) :
    (reportDeparture s).now = s.now ∧ (reportDeparture s).pwron = s.pwron ∧ (reportDeparture s).warm = s.warm
      ∧ (reportDeparture s).ring = s.ring ∧ (reportDeparture s).points = s.points
      ∧ (reportDeparture s).sections = s.sections ∧ (reportDeparture s).peer = s.peer
      ∧ (reportDeparture s).reports = s.reports ∧ (reportDeparture s).requests = s.requests
      ∧ (reportDeparture s).attention = s.attention ∧ (reportDeparture s).freeCount = s.freeCount
      ∧ (reportDeparture s).pending = s.pending ∧ (reportDeparture s).tables.points = s.tables.points
      ∧ (reportDeparture s).tables.sections = s.tables.sections
      ∧ (reportDeparture s).tables.params = s.tables.params ∧ (reportDeparture s).tables.load = s.tables.load
      ∧ (reportDeparture s).tables.activated = s.tables.activated
      ∧ (reportDeparture s).tables.version = s.tables.version := by
  unfold reportDeparture; split <;> simp

@[simp] theorem judge_keeps (p : PointIndex) (s : State) :
    (judge p s).now = s.now ∧ (judge p s).pwron = s.pwron ∧ (judge p s).warm = s.warm ∧ (judge p s).ring = s.ring
      ∧ (judge p s).sections = s.sections ∧ (judge p s).peer = s.peer ∧ (judge p s).reports = s.reports
      ∧ (judge p s).requests = s.requests ∧ (judge p s).tables = s.tables ∧ (judge p s).attention = s.attention
      ∧ (judge p s).freeCount = s.freeCount ∧ (judge p s).pending = s.pending
      ∧ (judge p s).points.queue = s.points.queue ∧ (judge p s).points.processing = s.points.processing := by
  unfold judge; split
  · simp
  · dsimp only; split <;> simp

@[simp] theorem phaseStep_keeps (r : EventRecord) (s : State) :
    (phaseStep r s).now = s.now ∧ (phaseStep r s).pwron = s.pwron ∧ (phaseStep r s).warm = s.warm
      ∧ (phaseStep r s).ring = s.ring ∧ (phaseStep r s).requests = s.requests ∧ (phaseStep r s).tables = s.tables
      ∧ (phaseStep r s).freeCount = s.freeCount ∧ (phaseStep r s).pending = s.pending
      ∧ (phaseStep r s).points.queue = s.points.queue ∧ (phaseStep r s).points.processing = s.points.processing
      ∧ (phaseStep r s).sections.sideMap = s.sections.sideMap ∧ (phaseStep r s).peer.state = s.peer.state
      ∧ (phaseStep r s).peer.silence = s.peer.silence ∧ (phaseStep r s).peer.entries = s.peer.entries
      ∧ (phaseStep r s).reports.cyclePointer = s.reports.cyclePointer
      ∧ (phaseStep r s).reports.cycleTimer = s.reports.cycleTimer
      ∧ (phaseStep r s).attention.mask = s.attention.mask := by
  unfold phaseStep; dsimp only; split <;> simp

@[simp] theorem applyHealthy_keeps (r : EventRecord) (s : State) :
    (applyHealthy r s).now = s.now ∧ (applyHealthy r s).pwron = s.pwron ∧ (applyHealthy r s).warm = s.warm
      ∧ (applyHealthy r s).ring = s.ring ∧ (applyHealthy r s).requests = s.requests
      ∧ (applyHealthy r s).tables = s.tables ∧ (applyHealthy r s).freeCount = s.freeCount
      ∧ (applyHealthy r s).pending = s.pending ∧ (applyHealthy r s).points.queue = s.points.queue
      ∧ (applyHealthy r s).points.processing = s.points.processing
      ∧ (applyHealthy r s).sections.sideMap = s.sections.sideMap ∧ (applyHealthy r s).peer.state = s.peer.state
      ∧ (applyHealthy r s).peer.silence = s.peer.silence ∧ (applyHealthy r s).peer.entries = s.peer.entries
      ∧ (applyHealthy r s).reports.cyclePointer = s.reports.cyclePointer
      ∧ (applyHealthy r s).reports.cycleTimer = s.reports.cycleTimer
      ∧ (applyHealthy r s).attention.mask = s.attention.mask := by
  unfold applyHealthy; split
  · simp
  · simp
  · dsimp only; split <;> simp

@[simp] theorem applyStarting_keeps (r : EventRecord) (s : State) :
    (applyStarting r s).now = s.now ∧ (applyStarting r s).pwron = s.pwron ∧ (applyStarting r s).warm = s.warm
      ∧ (applyStarting r s).ring = s.ring ∧ (applyStarting r s).requests = s.requests
      ∧ (applyStarting r s).freeCount = s.freeCount ∧ (applyStarting r s).pending = s.pending
      ∧ (applyStarting r s).points.queue = s.points.queue
      ∧ (applyStarting r s).points.processing = s.points.processing
      ∧ (applyStarting r s).sections.sideMap = s.sections.sideMap ∧ (applyStarting r s).peer.state = s.peer.state
      ∧ (applyStarting r s).peer.silence = s.peer.silence ∧ (applyStarting r s).peer.entries = s.peer.entries
      ∧ (applyStarting r s).reports.cyclePointer = s.reports.cyclePointer
      ∧ (applyStarting r s).reports.cycleTimer = s.reports.cycleTimer
      ∧ (applyStarting r s).attention.mask = s.attention.mask ∧ (applyStarting r s).tables.points = s.tables.points
      ∧ (applyStarting r s).tables.sections = s.tables.sections
      ∧ (applyStarting r s).tables.params = s.tables.params ∧ (applyStarting r s).tables.load = s.tables.load
      ∧ (applyStarting r s).tables.activated = s.tables.activated
      ∧ (applyStarting r s).tables.version = s.tables.version := by
  unfold applyStarting; split
  · simp
  · split <;> simp

@[simp] theorem applyFaulted_keeps (r : EventRecord) (s : State) :
    (applyFaulted r s).now = s.now ∧ (applyFaulted r s).pwron = s.pwron ∧ (applyFaulted r s).warm = s.warm
      ∧ (applyFaulted r s).ring = s.ring ∧ (applyFaulted r s).sections = s.sections
      ∧ (applyFaulted r s).peer = s.peer ∧ (applyFaulted r s).reports = s.reports
      ∧ (applyFaulted r s).requests = s.requests ∧ (applyFaulted r s).tables = s.tables
      ∧ (applyFaulted r s).attention = s.attention ∧ (applyFaulted r s).freeCount = s.freeCount
      ∧ (applyFaulted r s).pending = s.pending ∧ (applyFaulted r s).points.queue = s.points.queue
      ∧ (applyFaulted r s).points.processing = s.points.processing
      ∧ (applyFaulted r s).points.request = s.points.request := by
  unfold applyFaulted; split <;> simp

@[simp] theorem applyRecord_keeps (r : EventRecord) (s : State) :
    (applyRecord r s).now = s.now ∧ (applyRecord r s).pwron = s.pwron ∧ (applyRecord r s).warm = s.warm
      ∧ (applyRecord r s).ring = s.ring ∧ (applyRecord r s).requests = s.requests
      ∧ (applyRecord r s).freeCount = s.freeCount ∧ (applyRecord r s).pending = s.pending
      ∧ (applyRecord r s).points.queue = s.points.queue ∧ (applyRecord r s).points.processing = s.points.processing
      ∧ (applyRecord r s).sections.sideMap = s.sections.sideMap ∧ (applyRecord r s).peer.state = s.peer.state
      ∧ (applyRecord r s).peer.silence = s.peer.silence ∧ (applyRecord r s).peer.entries = s.peer.entries
      ∧ (applyRecord r s).reports.cyclePointer = s.reports.cyclePointer
      ∧ (applyRecord r s).reports.cycleTimer = s.reports.cycleTimer
      ∧ (applyRecord r s).attention.mask = s.attention.mask ∧ (applyRecord r s).tables.points = s.tables.points
      ∧ (applyRecord r s).tables.sections = s.tables.sections ∧ (applyRecord r s).tables.params = s.tables.params
      ∧ (applyRecord r s).tables.load = s.tables.load ∧ (applyRecord r s).tables.activated = s.tables.activated
      ∧ (applyRecord r s).tables.version = s.tables.version := by
  unfold applyRecord; split <;> simp

@[simp] theorem resetPoints_keeps (st : PointStatus) (s : State) :
    (resetPoints st s).now = s.now ∧ (resetPoints st s).pwron = s.pwron ∧ (resetPoints st s).warm = s.warm
      ∧ (resetPoints st s).ring = s.ring ∧ (resetPoints st s).sections = s.sections
      ∧ (resetPoints st s).peer = s.peer ∧ (resetPoints st s).reports = s.reports
      ∧ (resetPoints st s).requests = s.requests ∧ (resetPoints st s).tables = s.tables
      ∧ (resetPoints st s).attention = s.attention ∧ (resetPoints st s).freeCount = s.freeCount
      ∧ (resetPoints st s).pending = s.pending := by
  simp [resetPoints]

@[simp] theorem offerRecord_keeps (r : EventRecord) (s : State) :
    (offerRecord r s).now = s.now ∧ (offerRecord r s).pwron = s.pwron ∧ (offerRecord r s).warm = s.warm
      ∧ (offerRecord r s).ring = s.ring ∧ (offerRecord r s).sections = s.sections ∧ (offerRecord r s).peer = s.peer
      ∧ (offerRecord r s).reports = s.reports ∧ (offerRecord r s).requests = s.requests
      ∧ (offerRecord r s).tables = s.tables ∧ (offerRecord r s).freeCount = s.freeCount
      ∧ (offerRecord r s).pending = s.pending ∧ (offerRecord r s).points.records = s.points.records
      ∧ (offerRecord r s).points.processing = s.points.processing
      ∧ (offerRecord r s).points.request = s.points.request ∧ (offerRecord r s).attention.mask = s.attention.mask := by
  unfold offerRecord; split <;> simp

@[simp] theorem restartSupervision_keeps (p : PointIndex) (s : State) :
    (restartSupervision p s).now = s.now ∧ (restartSupervision p s).pwron = s.pwron
      ∧ (restartSupervision p s).warm = s.warm ∧ (restartSupervision p s).ring = s.ring
      ∧ (restartSupervision p s).sections = s.sections ∧ (restartSupervision p s).peer = s.peer
      ∧ (restartSupervision p s).reports = s.reports ∧ (restartSupervision p s).requests = s.requests
      ∧ (restartSupervision p s).tables = s.tables ∧ (restartSupervision p s).attention = s.attention
      ∧ (restartSupervision p s).freeCount = s.freeCount ∧ (restartSupervision p s).pending = s.pending
      ∧ (restartSupervision p s).points.queue = s.points.queue
      ∧ (restartSupervision p s).points.processing = s.points.processing
      ∧ (restartSupervision p s).points.request = s.points.request := by
  unfold restartSupervision; split <;> simp

@[simp] theorem snoopHead_keeps (t : Telegram) (s : State) :
    (snoopHead t s).now = s.now ∧ (snoopHead t s).pwron = s.pwron ∧ (snoopHead t s).warm = s.warm
      ∧ (snoopHead t s).ring = s.ring ∧ (snoopHead t s).sections = s.sections ∧ (snoopHead t s).peer = s.peer
      ∧ (snoopHead t s).reports = s.reports ∧ (snoopHead t s).requests = s.requests
      ∧ (snoopHead t s).tables = s.tables ∧ (snoopHead t s).freeCount = s.freeCount
      ∧ (snoopHead t s).pending = s.pending ∧ (snoopHead t s).points.processing = s.points.processing
      ∧ (snoopHead t s).points.request = s.points.request ∧ (snoopHead t s).attention.mask = s.attention.mask := by
  unfold snoopHead; split
  · simp
  · split <;> simp

@[simp] theorem takeRecord_keeps (s : State) :
    (takeRecord s).now = s.now ∧ (takeRecord s).pwron = s.pwron ∧ (takeRecord s).warm = s.warm
      ∧ (takeRecord s).ring = s.ring ∧ (takeRecord s).sections = s.sections ∧ (takeRecord s).peer = s.peer
      ∧ (takeRecord s).reports = s.reports ∧ (takeRecord s).requests = s.requests ∧ (takeRecord s).tables = s.tables
      ∧ (takeRecord s).attention = s.attention ∧ (takeRecord s).freeCount = s.freeCount
      ∧ (takeRecord s).pending = s.pending ∧ (takeRecord s).points.records = s.points.records
      ∧ (takeRecord s).points.request = s.points.request := by
  unfold takeRecord; split <;> simp

@[simp] theorem takeRequest_keeps (q : FaultRequest) (s : State) :
    (takeRequest q s).now = s.now ∧ (takeRequest q s).pwron = s.pwron ∧ (takeRequest q s).warm = s.warm
      ∧ (takeRequest q s).ring = s.ring ∧ (takeRequest q s).requests = s.requests
      ∧ (takeRequest q s).tables = s.tables ∧ (takeRequest q s).freeCount = s.freeCount
      ∧ (takeRequest q s).pending = s.pending ∧ (takeRequest q s).points.queue = s.points.queue
      ∧ (takeRequest q s).points.processing = s.points.processing
      ∧ (takeRequest q s).sections.sideMap = s.sections.sideMap ∧ (takeRequest q s).peer.state = s.peer.state
      ∧ (takeRequest q s).peer.silence = s.peer.silence ∧ (takeRequest q s).peer.entries = s.peer.entries
      ∧ (takeRequest q s).reports.cyclePointer = s.reports.cyclePointer
      ∧ (takeRequest q s).reports.cycleTimer = s.reports.cycleTimer
      ∧ (takeRequest q s).attention.mask = s.attention.mask := by
  unfold takeRequest; dsimp only; split <;> simp

@[simp] theorem supervisionExpired_keeps (p : PointIndex) (s : State) :
    (supervisionExpired p s).now = s.now ∧ (supervisionExpired p s).pwron = s.pwron
      ∧ (supervisionExpired p s).warm = s.warm ∧ (supervisionExpired p s).ring = s.ring
      ∧ (supervisionExpired p s).requests = s.requests ∧ (supervisionExpired p s).tables = s.tables
      ∧ (supervisionExpired p s).freeCount = s.freeCount ∧ (supervisionExpired p s).pending = s.pending
      ∧ (supervisionExpired p s).points.queue = s.points.queue
      ∧ (supervisionExpired p s).points.processing = s.points.processing
      ∧ (supervisionExpired p s).points.request = s.points.request
      ∧ (supervisionExpired p s).sections.sideMap = s.sections.sideMap
      ∧ (supervisionExpired p s).peer.state = s.peer.state ∧ (supervisionExpired p s).peer.silence = s.peer.silence
      ∧ (supervisionExpired p s).peer.entries = s.peer.entries
      ∧ (supervisionExpired p s).reports.cyclePointer = s.reports.cyclePointer
      ∧ (supervisionExpired p s).reports.cycleTimer = s.reports.cycleTimer
      ∧ (supervisionExpired p s).attention.mask = s.attention.mask := by
  unfold supervisionExpired; split <;> simp

@[simp] theorem timeoutPoint_keeps (s : State) (p : PointIndex) :
    (timeoutPoint s p).now = s.now ∧ (timeoutPoint s p).pwron = s.pwron ∧ (timeoutPoint s p).warm = s.warm
      ∧ (timeoutPoint s p).ring = s.ring ∧ (timeoutPoint s p).requests = s.requests
      ∧ (timeoutPoint s p).tables = s.tables ∧ (timeoutPoint s p).freeCount = s.freeCount
      ∧ (timeoutPoint s p).pending = s.pending ∧ (timeoutPoint s p).points.queue = s.points.queue
      ∧ (timeoutPoint s p).points.processing = s.points.processing
      ∧ (timeoutPoint s p).points.request = s.points.request
      ∧ (timeoutPoint s p).sections.sideMap = s.sections.sideMap ∧ (timeoutPoint s p).peer.state = s.peer.state
      ∧ (timeoutPoint s p).peer.silence = s.peer.silence ∧ (timeoutPoint s p).peer.entries = s.peer.entries
      ∧ (timeoutPoint s p).reports.cyclePointer = s.reports.cyclePointer
      ∧ (timeoutPoint s p).reports.cycleTimer = s.reports.cycleTimer
      ∧ (timeoutPoint s p).attention.mask = s.attention.mask := by
  unfold timeoutPoint; split <;> simp

@[simp] theorem foldl_timeoutPoint_keeps (l : List PointIndex) (s : State) :
    (l.foldl timeoutPoint s).now = s.now ∧ (l.foldl timeoutPoint s).pwron = s.pwron
      ∧ (l.foldl timeoutPoint s).warm = s.warm ∧ (l.foldl timeoutPoint s).ring = s.ring
      ∧ (l.foldl timeoutPoint s).requests = s.requests ∧ (l.foldl timeoutPoint s).tables = s.tables
      ∧ (l.foldl timeoutPoint s).freeCount = s.freeCount ∧ (l.foldl timeoutPoint s).pending = s.pending
      ∧ (l.foldl timeoutPoint s).points.queue = s.points.queue
      ∧ (l.foldl timeoutPoint s).points.processing = s.points.processing
      ∧ (l.foldl timeoutPoint s).points.request = s.points.request
      ∧ (l.foldl timeoutPoint s).sections.sideMap = s.sections.sideMap
      ∧ (l.foldl timeoutPoint s).peer.state = s.peer.state ∧ (l.foldl timeoutPoint s).peer.silence = s.peer.silence
      ∧ (l.foldl timeoutPoint s).peer.entries = s.peer.entries
      ∧ (l.foldl timeoutPoint s).reports.cyclePointer = s.reports.cyclePointer
      ∧ (l.foldl timeoutPoint s).reports.cycleTimer = s.reports.cycleTimer
      ∧ (l.foldl timeoutPoint s).attention.mask = s.attention.mask := by
  induction l generalizing s with
  | nil => simp
  | cons p l ih => simpa using ih (timeoutPoint s p)

@[simp] theorem startLimitExpired_keeps (s : State) :
    (startLimitExpired s).now = s.now ∧ (startLimitExpired s).pwron = s.pwron ∧ (startLimitExpired s).warm = s.warm
      ∧ (startLimitExpired s).ring = s.ring ∧ (startLimitExpired s).requests = s.requests
      ∧ (startLimitExpired s).freeCount = s.freeCount ∧ (startLimitExpired s).pending = s.pending
      ∧ (startLimitExpired s).points.queue = s.points.queue
      ∧ (startLimitExpired s).points.processing = s.points.processing
      ∧ (startLimitExpired s).points.request = s.points.request
      ∧ (startLimitExpired s).sections.sideMap = s.sections.sideMap
      ∧ (startLimitExpired s).peer.state = s.peer.state ∧ (startLimitExpired s).peer.silence = s.peer.silence
      ∧ (startLimitExpired s).peer.entries = s.peer.entries
      ∧ (startLimitExpired s).reports.cyclePointer = s.reports.cyclePointer
      ∧ (startLimitExpired s).reports.cycleTimer = s.reports.cycleTimer
      ∧ (startLimitExpired s).attention.mask = s.attention.mask
      ∧ (startLimitExpired s).tables.points = s.tables.points
      ∧ (startLimitExpired s).tables.sections = s.tables.sections
      ∧ (startLimitExpired s).tables.params = s.tables.params ∧ (startLimitExpired s).tables.load = s.tables.load
      ∧ (startLimitExpired s).tables.activated = s.tables.activated
      ∧ (startLimitExpired s).tables.version = s.tables.version := by
  simp [startLimitExpired]

end Sys2Proof.Machine
end

