-- ==== Sys2Proof/Laws/Tables.lean ====
section
/-! SUPPORT. Laws of the Table Store: what each operation keeps (simp splits each conjunction into one rule per item), and
what it does. -/

namespace Sys2Proof.Machine

@[simp] theorem maybeStartReporting_keeps (b s : State) :
    (maybeStartReporting b s).now = s.now ∧ (maybeStartReporting b s).pwron = s.pwron
      ∧ (maybeStartReporting b s).warm = s.warm ∧ (maybeStartReporting b s).ring = s.ring
      ∧ (maybeStartReporting b s).points = s.points ∧ (maybeStartReporting b s).sections = s.sections
      ∧ (maybeStartReporting b s).peer = s.peer ∧ (maybeStartReporting b s).requests = s.requests
      ∧ (maybeStartReporting b s).tables = s.tables ∧ (maybeStartReporting b s).attention = s.attention
      ∧ (maybeStartReporting b s).freeCount = s.freeCount ∧ (maybeStartReporting b s).pending = s.pending
      ∧ (maybeStartReporting b s).reports.queue = s.reports.queue := by
  unfold maybeStartReporting; split <;> simp

@[simp] theorem closeLoad_keeps (x : Staged) (s : State) :
    (closeLoad x s).now = s.now ∧ (closeLoad x s).pwron = s.pwron ∧ (closeLoad x s).warm = s.warm
      ∧ (closeLoad x s).ring = s.ring ∧ (closeLoad x s).peer = s.peer ∧ (closeLoad x s).requests = s.requests
      ∧ (closeLoad x s).attention = s.attention ∧ (closeLoad x s).freeCount = s.freeCount
      ∧ (closeLoad x s).pending = s.pending ∧ (closeLoad x s).sections.sideMap = s.sections.sideMap
      ∧ (closeLoad x s).tables.activated = s.tables.activated ∧ (closeLoad x s).tables.version = s.tables.version
      ∧ (closeLoad x s).tables.mode = s.tables.mode ∧ (closeLoad x s).tables.startLimit = s.tables.startLimit := by
  unfold closeLoad; dsimp only; split <;> simp

@[simp] theorem enterConfig_keeps (s : State) :
    (enterConfig s).now = s.now ∧ (enterConfig s).pwron = s.pwron ∧ (enterConfig s).warm = s.warm
      ∧ (enterConfig s).ring = s.ring ∧ (enterConfig s).requests = s.requests
      ∧ (enterConfig s).freeCount = s.freeCount ∧ (enterConfig s).pending = s.pending
      ∧ (enterConfig s).sections.sideMap = s.sections.sideMap
      ∧ (enterConfig s).reports.cyclePointer = s.reports.cyclePointer
      ∧ (enterConfig s).reports.cycleTimer = s.reports.cycleTimer
      ∧ (enterConfig s).attention.mask = s.attention.mask ∧ (enterConfig s).tables.points = s.tables.points
      ∧ (enterConfig s).tables.sections = s.tables.sections ∧ (enterConfig s).tables.params = s.tables.params
      ∧ (enterConfig s).tables.load = s.tables.load ∧ (enterConfig s).tables.version = s.tables.version := by
  simp [enterConfig]

@[simp] theorem answerActivation_keeps (a : Activation) (o : AnswerOutcome) (d : List Byte) (s : State) :
    (answerActivation a o d s).now = s.now ∧ (answerActivation a o d s).pwron = s.pwron
      ∧ (answerActivation a o d s).warm = s.warm ∧ (answerActivation a o d s).ring = s.ring
      ∧ (answerActivation a o d s).points = s.points ∧ (answerActivation a o d s).sections = s.sections
      ∧ (answerActivation a o d s).peer = s.peer ∧ (answerActivation a o d s).reports = s.reports
      ∧ (answerActivation a o d s).tables = s.tables ∧ (answerActivation a o d s).attention = s.attention
      ∧ (answerActivation a o d s).freeCount = s.freeCount ∧ (answerActivation a o d s).pending = s.pending
      ∧ (answerActivation a o d s).requests.restartPending = s.requests.restartPending := by
  simp [answerActivation]

@[simp] theorem startSections_keeps (c : SectionCause) (s : State) :
    (startSections c s).now = s.now ∧ (startSections c s).pwron = s.pwron ∧ (startSections c s).warm = s.warm
      ∧ (startSections c s).ring = s.ring ∧ (startSections c s).points = s.points
      ∧ (startSections c s).peer = s.peer ∧ (startSections c s).requests = s.requests
      ∧ (startSections c s).tables = s.tables ∧ (startSections c s).attention = s.attention
      ∧ (startSections c s).freeCount = s.freeCount ∧ (startSections c s).pending = s.pending
      ∧ (startSections c s).sections.sideMap = s.sections.sideMap
      ∧ (startSections c s).reports.cyclePointer = s.reports.cyclePointer
      ∧ (startSections c s).reports.cycleTimer = s.reports.cycleTimer := by
  simp [startSections]

@[simp] theorem activateTables_keeps (v : BitVec 16) (s : State) :
    (activateTables v s).now = s.now ∧ (activateTables v s).pwron = s.pwron ∧ (activateTables v s).warm = s.warm
      ∧ (activateTables v s).ring = s.ring ∧ (activateTables v s).requests = s.requests
      ∧ (activateTables v s).attention = s.attention ∧ (activateTables v s).freeCount = s.freeCount
      ∧ (activateTables v s).pending = s.pending ∧ (activateTables v s).tables.points = s.tables.points
      ∧ (activateTables v s).tables.sections = s.tables.sections
      ∧ (activateTables v s).tables.params = s.tables.params ∧ (activateTables v s).tables.load = s.tables.load := by
  simp [activateTables]

@[simp] theorem endActivation_keeps (a : Activation) (s : State) :
    (endActivation a s).now = s.now ∧ (endActivation a s).pwron = s.pwron ∧ (endActivation a s).warm = s.warm
      ∧ (endActivation a s).ring = s.ring ∧ (endActivation a s).attention = s.attention
      ∧ (endActivation a s).freeCount = s.freeCount ∧ (endActivation a s).pending = s.pending
      ∧ (endActivation a s).tables.points = s.tables.points
      ∧ (endActivation a s).tables.sections = s.tables.sections
      ∧ (endActivation a s).tables.params = s.tables.params ∧ (endActivation a s).tables.load = s.tables.load
      ∧ (endActivation a s).requests.restartPending = s.requests.restartPending := by
  unfold endActivation; split <;> simp

end Sys2Proof.Machine
end

