-- ==== Sys2Proof/Laws/Requests.lean ====
section
/-! SUPPORT. Laws of the Request Executor: what each operation keeps (simp splits each conjunction into one rule per item), and
what it does. -/

namespace Sys2Proof.Machine

@[simp] theorem acknowledge_keeps (s : State) (m : BitVec 16) :
    (s.acknowledge m).now = s.now ∧ (s.acknowledge m).pwron = s.pwron ∧ (s.acknowledge m).warm = s.warm
      ∧ (s.acknowledge m).ring = s.ring ∧ (s.acknowledge m).points = s.points
      ∧ (s.acknowledge m).sections = s.sections ∧ (s.acknowledge m).peer = s.peer
      ∧ (s.acknowledge m).reports = s.reports ∧ (s.acknowledge m).requests = s.requests
      ∧ (s.acknowledge m).tables = s.tables ∧ (s.acknowledge m).freeCount = s.freeCount
      ∧ (s.acknowledge m).pending = s.pending ∧ (s.acknowledge m).attention.mask = s.attention.mask := by
  simp [State.acknowledge]

@[simp] theorem setAlarmMask_keeps (s : State) (m : BitVec 16) :
    (s.setAlarmMask m).now = s.now ∧ (s.setAlarmMask m).pwron = s.pwron ∧ (s.setAlarmMask m).warm = s.warm
      ∧ (s.setAlarmMask m).ring = s.ring ∧ (s.setAlarmMask m).points = s.points
      ∧ (s.setAlarmMask m).sections = s.sections ∧ (s.setAlarmMask m).peer = s.peer
      ∧ (s.setAlarmMask m).reports = s.reports ∧ (s.setAlarmMask m).requests = s.requests
      ∧ (s.setAlarmMask m).tables = s.tables ∧ (s.setAlarmMask m).freeCount = s.freeCount
      ∧ (s.setAlarmMask m).pending = s.pending ∧ (s.setAlarmMask m).attention.latches = s.attention.latches := by
  simp [State.setAlarmMask]

@[simp] theorem ackAttention_keeps (s : State) (ps : List Byte) :
    ((ackAttention s ps).state).now = s.now ∧ ((ackAttention s ps).state).pwron = s.pwron
      ∧ ((ackAttention s ps).state).warm = s.warm ∧ ((ackAttention s ps).state).ring = s.ring
      ∧ ((ackAttention s ps).state).points = s.points ∧ ((ackAttention s ps).state).sections = s.sections
      ∧ ((ackAttention s ps).state).peer = s.peer ∧ ((ackAttention s ps).state).reports = s.reports
      ∧ ((ackAttention s ps).state).requests = s.requests ∧ ((ackAttention s ps).state).tables = s.tables
      ∧ ((ackAttention s ps).state).freeCount = s.freeCount ∧ ((ackAttention s ps).state).pending = s.pending
      ∧ ((ackAttention s ps).state).attention.mask = s.attention.mask := by
  simp [ackAttention, done]

@[simp] theorem setMask_keeps (s : State) (ps : List Byte) :
    ((setMask s ps).state).now = s.now ∧ ((setMask s ps).state).pwron = s.pwron
      ∧ ((setMask s ps).state).warm = s.warm ∧ ((setMask s ps).state).ring = s.ring
      ∧ ((setMask s ps).state).points = s.points ∧ ((setMask s ps).state).sections = s.sections
      ∧ ((setMask s ps).state).peer = s.peer ∧ ((setMask s ps).state).reports = s.reports
      ∧ ((setMask s ps).state).requests = s.requests ∧ ((setMask s ps).state).tables = s.tables
      ∧ ((setMask s ps).state).freeCount = s.freeCount ∧ ((setMask s ps).state).pending = s.pending
      ∧ ((setMask s ps).state).attention.latches = s.attention.latches := by
  simp [setMask, done]

@[simp] theorem clearSuspect_keeps (s : State) (ps : List Byte) :
    ((clearSuspect s ps).state).now = s.now ∧ ((clearSuspect s ps).state).pwron = s.pwron
      ∧ ((clearSuspect s ps).state).warm = s.warm ∧ ((clearSuspect s ps).state).ring = s.ring
      ∧ ((clearSuspect s ps).state).sections = s.sections ∧ ((clearSuspect s ps).state).peer = s.peer
      ∧ ((clearSuspect s ps).state).reports = s.reports ∧ ((clearSuspect s ps).state).requests = s.requests
      ∧ ((clearSuspect s ps).state).tables = s.tables ∧ ((clearSuspect s ps).state).attention = s.attention
      ∧ ((clearSuspect s ps).state).freeCount = s.freeCount ∧ ((clearSuspect s ps).state).pending = s.pending
      ∧ ((clearSuspect s ps).state).points.queue = s.points.queue
      ∧ ((clearSuspect s ps).state).points.processing = s.points.processing
      ∧ ((clearSuspect s ps).state).points.request = s.points.request := by
  unfold clearSuspect; split <;> simp [done, refuse]

@[simp] theorem restoreSection_keeps (k : Restoration) (s : State) (src : Byte) (ps : List Byte) :
    ((restoreSection k s src ps).state).now = s.now ∧ ((restoreSection k s src ps).state).pwron = s.pwron
      ∧ ((restoreSection k s src ps).state).warm = s.warm ∧ ((restoreSection k s src ps).state).ring = s.ring
      ∧ ((restoreSection k s src ps).state).points = s.points
      ∧ ((restoreSection k s src ps).state).requests = s.requests
      ∧ ((restoreSection k s src ps).state).tables = s.tables
      ∧ ((restoreSection k s src ps).state).attention = s.attention
      ∧ ((restoreSection k s src ps).state).freeCount = s.freeCount
      ∧ ((restoreSection k s src ps).state).pending = s.pending
      ∧ ((restoreSection k s src ps).state).sections.sideMap = s.sections.sideMap
      ∧ ((restoreSection k s src ps).state).peer.state = s.peer.state
      ∧ ((restoreSection k s src ps).state).peer.silence = s.peer.silence
      ∧ ((restoreSection k s src ps).state).peer.entries = s.peer.entries
      ∧ ((restoreSection k s src ps).state).reports.cyclePointer = s.reports.cyclePointer
      ∧ ((restoreSection k s src ps).state).reports.cycleTimer = s.reports.cycleTimer := by
  unfold restoreSection; dsimp only
  repeat' split
  all_goals simp [done, refuse]

@[simp] theorem enterConfigRequest_keeps (s : State) :
    ((enterConfigRequest s).state).now = s.now ∧ ((enterConfigRequest s).state).pwron = s.pwron
      ∧ ((enterConfigRequest s).state).warm = s.warm ∧ ((enterConfigRequest s).state).ring = s.ring
      ∧ ((enterConfigRequest s).state).requests = s.requests
      ∧ ((enterConfigRequest s).state).freeCount = s.freeCount ∧ ((enterConfigRequest s).state).pending = s.pending
      ∧ ((enterConfigRequest s).state).sections.sideMap = s.sections.sideMap
      ∧ ((enterConfigRequest s).state).reports.cyclePointer = s.reports.cyclePointer
      ∧ ((enterConfigRequest s).state).reports.cycleTimer = s.reports.cycleTimer
      ∧ ((enterConfigRequest s).state).attention.mask = s.attention.mask
      ∧ ((enterConfigRequest s).state).tables.points = s.tables.points
      ∧ ((enterConfigRequest s).state).tables.sections = s.tables.sections
      ∧ ((enterConfigRequest s).state).tables.params = s.tables.params
      ∧ ((enterConfigRequest s).state).tables.load = s.tables.load
      ∧ ((enterConfigRequest s).state).tables.version = s.tables.version := by
  unfold enterConfigRequest done; dsimp only; split <;> simp

@[simp] theorem loadOpen_keeps (s : State) (ps : List Byte) :
    ((loadOpen s ps).state).now = s.now ∧ ((loadOpen s ps).state).pwron = s.pwron
      ∧ ((loadOpen s ps).state).warm = s.warm ∧ ((loadOpen s ps).state).ring = s.ring
      ∧ ((loadOpen s ps).state).points = s.points ∧ ((loadOpen s ps).state).sections = s.sections
      ∧ ((loadOpen s ps).state).peer = s.peer ∧ ((loadOpen s ps).state).reports = s.reports
      ∧ ((loadOpen s ps).state).requests = s.requests ∧ ((loadOpen s ps).state).attention = s.attention
      ∧ ((loadOpen s ps).state).freeCount = s.freeCount ∧ ((loadOpen s ps).state).pending = s.pending
      ∧ ((loadOpen s ps).state).tables.points = s.tables.points
      ∧ ((loadOpen s ps).state).tables.sections = s.tables.sections
      ∧ ((loadOpen s ps).state).tables.params = s.tables.params
      ∧ ((loadOpen s ps).state).tables.activated = s.tables.activated
      ∧ ((loadOpen s ps).state).tables.version = s.tables.version
      ∧ ((loadOpen s ps).state).tables.mode = s.tables.mode
      ∧ ((loadOpen s ps).state).tables.startLimit = s.tables.startLimit := by
  unfold loadOpen; dsimp only
  repeat' split
  all_goals simp [done, refuse]

@[simp] theorem loadEntry_keeps (s : State) (ps : List Byte) :
    ((loadEntry s ps).state).now = s.now ∧ ((loadEntry s ps).state).pwron = s.pwron
      ∧ ((loadEntry s ps).state).warm = s.warm ∧ ((loadEntry s ps).state).ring = s.ring
      ∧ ((loadEntry s ps).state).points = s.points ∧ ((loadEntry s ps).state).sections = s.sections
      ∧ ((loadEntry s ps).state).peer = s.peer ∧ ((loadEntry s ps).state).reports = s.reports
      ∧ ((loadEntry s ps).state).requests = s.requests ∧ ((loadEntry s ps).state).attention = s.attention
      ∧ ((loadEntry s ps).state).freeCount = s.freeCount ∧ ((loadEntry s ps).state).pending = s.pending
      ∧ ((loadEntry s ps).state).tables.points = s.tables.points
      ∧ ((loadEntry s ps).state).tables.sections = s.tables.sections
      ∧ ((loadEntry s ps).state).tables.params = s.tables.params
      ∧ ((loadEntry s ps).state).tables.activated = s.tables.activated
      ∧ ((loadEntry s ps).state).tables.version = s.tables.version
      ∧ ((loadEntry s ps).state).tables.mode = s.tables.mode
      ∧ ((loadEntry s ps).state).tables.startLimit = s.tables.startLimit := by
  unfold loadEntry; dsimp only
  repeat' split
  all_goals simp [done, refuse]

@[simp] theorem loadClose_keeps (s : State) :
    ((loadClose s).state).now = s.now ∧ ((loadClose s).state).pwron = s.pwron ∧ ((loadClose s).state).warm = s.warm
      ∧ ((loadClose s).state).ring = s.ring ∧ ((loadClose s).state).peer = s.peer
      ∧ ((loadClose s).state).requests = s.requests ∧ ((loadClose s).state).attention = s.attention
      ∧ ((loadClose s).state).freeCount = s.freeCount ∧ ((loadClose s).state).pending = s.pending
      ∧ ((loadClose s).state).sections.sideMap = s.sections.sideMap
      ∧ ((loadClose s).state).tables.activated = s.tables.activated
      ∧ ((loadClose s).state).tables.version = s.tables.version ∧ ((loadClose s).state).tables.mode = s.tables.mode
      ∧ ((loadClose s).state).tables.startLimit = s.tables.startLimit := by
  unfold loadClose; dsimp only
  repeat' split
  all_goals simp [done, refuse]

@[simp] theorem pushAnswer_keeps (a : Answer) (s : State) :
    (pushAnswer a s).now = s.now ∧ (pushAnswer a s).pwron = s.pwron ∧ (pushAnswer a s).warm = s.warm
      ∧ (pushAnswer a s).ring = s.ring ∧ (pushAnswer a s).points = s.points ∧ (pushAnswer a s).sections = s.sections
      ∧ (pushAnswer a s).peer = s.peer ∧ (pushAnswer a s).reports = s.reports ∧ (pushAnswer a s).tables = s.tables
      ∧ (pushAnswer a s).attention = s.attention ∧ (pushAnswer a s).freeCount = s.freeCount
      ∧ (pushAnswer a s).pending = s.pending ∧ (pushAnswer a s).requests.activation = s.requests.activation
      ∧ (pushAnswer a s).requests.restartPending = s.requests.restartPending := by
  simp [pushAnswer]

@[simp] theorem activateRequest_keeps (src code tag : Byte) (ps : List Byte) (s : State) :
    (activateRequest src code tag ps s).now = s.now ∧ (activateRequest src code tag ps s).pwron = s.pwron
      ∧ (activateRequest src code tag ps s).warm = s.warm ∧ (activateRequest src code tag ps s).ring = s.ring
      ∧ (activateRequest src code tag ps s).points = s.points
      ∧ (activateRequest src code tag ps s).sections = s.sections
      ∧ (activateRequest src code tag ps s).peer = s.peer ∧ (activateRequest src code tag ps s).reports = s.reports
      ∧ (activateRequest src code tag ps s).tables = s.tables
      ∧ (activateRequest src code tag ps s).attention = s.attention
      ∧ (activateRequest src code tag ps s).freeCount = s.freeCount
      ∧ (activateRequest src code tag ps s).pending = s.pending
      ∧ (activateRequest src code tag ps s).requests.restartPending = s.requests.restartPending := by
  unfold activateRequest answered; dsimp only
  repeat' split
  all_goals simp [refuse]

@[simp] theorem restartRequest_keeps (src code tag : Byte) (s : State) :
    (restartRequest src code tag s).now = s.now ∧ (restartRequest src code tag s).pwron = s.pwron
      ∧ (restartRequest src code tag s).warm = s.warm ∧ (restartRequest src code tag s).ring = s.ring
      ∧ (restartRequest src code tag s).points = s.points ∧ (restartRequest src code tag s).sections = s.sections
      ∧ (restartRequest src code tag s).peer = s.peer ∧ (restartRequest src code tag s).reports = s.reports
      ∧ (restartRequest src code tag s).tables = s.tables ∧ (restartRequest src code tag s).attention = s.attention
      ∧ (restartRequest src code tag s).freeCount = s.freeCount
      ∧ (restartRequest src code tag s).pending = s.pending
      ∧ (restartRequest src code tag s).requests.activation = s.requests.activation := by
  simp [restartRequest]

@[simp] theorem executeRequest_keeps (c : RequestCode) (src code tag : Byte) (ps : List Byte) (s : State) :
    (executeRequest c src code tag ps s).now = s.now ∧ (executeRequest c src code tag ps s).pwron = s.pwron
      ∧ (executeRequest c src code tag ps s).warm = s.warm ∧ (executeRequest c src code tag ps s).ring = s.ring
      ∧ (executeRequest c src code tag ps s).freeCount = s.freeCount
      ∧ (executeRequest c src code tag ps s).pending = s.pending
      ∧ (executeRequest c src code tag ps s).sections.sideMap = s.sections.sideMap
      ∧ (executeRequest c src code tag ps s).tables.version = s.tables.version := by
  cases c <;> simp [executeRequest, answered, readStatus, readSection, readPoint, done, refuse]
  all_goals (repeat' split)
  all_goals simp

@[simp] theorem formAndExecute_keeps (q : Request) (s : State) :
    (formAndExecute q s).now = s.now ∧ (formAndExecute q s).pwron = s.pwron ∧ (formAndExecute q s).warm = s.warm
      ∧ (formAndExecute q s).ring = s.ring ∧ (formAndExecute q s).freeCount = s.freeCount
      ∧ (formAndExecute q s).pending = s.pending ∧ (formAndExecute q s).sections.sideMap = s.sections.sideMap
      ∧ (formAndExecute q s).tables.version = s.tables.version := by
  unfold formAndExecute answered
  repeat' split
  all_goals simp [refuse]

@[simp] theorem handleRequest_keeps (q : Request) (s : State) :
    (handleRequest q s).now = s.now ∧ (handleRequest q s).pwron = s.pwron ∧ (handleRequest q s).warm = s.warm
      ∧ (handleRequest q s).ring = s.ring ∧ (handleRequest q s).freeCount = s.freeCount
      ∧ (handleRequest q s).pending = s.pending ∧ (handleRequest q s).sections.sideMap = s.sections.sideMap
      ∧ (handleRequest q s).tables.version = s.tables.version := by
  unfold handleRequest
  repeat' split
  all_goals simp

end Sys2Proof.Machine
end

