-- ==== Sys2Proof/Laws/Ring.lean ====
section
/-! SUPPORT. Laws of the Ring Interface, the Acceptance Unit and the restarts: what each operation keeps (simp splits each conjunction into one rule per item), and
what it does. -/

namespace Sys2Proof.Machine

@[simp] theorem breakLoop_keeps (s : State) :
    (breakLoop s).now = s.now ∧ (breakLoop s).pwron = s.pwron ∧ (breakLoop s).warm = s.warm
      ∧ (breakLoop s).points = s.points ∧ (breakLoop s).sections = s.sections ∧ (breakLoop s).peer = s.peer
      ∧ (breakLoop s).reports = s.reports ∧ (breakLoop s).requests = s.requests ∧ (breakLoop s).tables = s.tables
      ∧ (breakLoop s).freeCount = s.freeCount ∧ (breakLoop s).pending = s.pending
      ∧ (breakLoop s).ring.ownAddress = s.ring.ownAddress ∧ (breakLoop s).ring.condition = s.ring.condition
      ∧ (breakLoop s).ring.activity = s.ring.activity ∧ (breakLoop s).ring.reception = s.ring.reception
      ∧ (breakLoop s).ring.forward = s.ring.forward ∧ (breakLoop s).ring.ownSeq = s.ring.ownSeq
      ∧ (breakLoop s).ring.tx = s.ring.tx ∧ (breakLoop s).ring.watch = s.ring.watch
      ∧ (breakLoop s).ring.missRun = s.ring.missRun ∧ (breakLoop s).attention.mask = s.attention.mask := by
  unfold breakLoop; split <;> simp

@[simp] theorem countMiss_keeps (s : State) :
    (countMiss s).now = s.now ∧ (countMiss s).pwron = s.pwron ∧ (countMiss s).warm = s.warm
      ∧ (countMiss s).points = s.points ∧ (countMiss s).sections = s.sections ∧ (countMiss s).peer = s.peer
      ∧ (countMiss s).reports = s.reports ∧ (countMiss s).requests = s.requests ∧ (countMiss s).tables = s.tables
      ∧ (countMiss s).freeCount = s.freeCount ∧ (countMiss s).pending = s.pending
      ∧ (countMiss s).ring.ownAddress = s.ring.ownAddress ∧ (countMiss s).ring.condition = s.ring.condition
      ∧ (countMiss s).ring.activity = s.ring.activity ∧ (countMiss s).ring.reception = s.ring.reception
      ∧ (countMiss s).ring.forward = s.ring.forward ∧ (countMiss s).ring.ownSeq = s.ring.ownSeq
      ∧ (countMiss s).ring.tx = s.ring.tx ∧ (countMiss s).ring.watch = s.ring.watch
      ∧ (countMiss s).attention.mask = s.attention.mask := by
  unfold countMiss; dsimp only; split <;> simp

@[simp] theorem missOldest_keeps (s : State) :
    (missOldest s).now = s.now ∧ (missOldest s).pwron = s.pwron ∧ (missOldest s).warm = s.warm
      ∧ (missOldest s).points = s.points ∧ (missOldest s).sections = s.sections ∧ (missOldest s).peer = s.peer
      ∧ (missOldest s).reports = s.reports ∧ (missOldest s).requests = s.requests ∧ (missOldest s).tables = s.tables
      ∧ (missOldest s).freeCount = s.freeCount ∧ (missOldest s).pending = s.pending
      ∧ (missOldest s).ring.ownAddress = s.ring.ownAddress ∧ (missOldest s).ring.condition = s.ring.condition
      ∧ (missOldest s).ring.activity = s.ring.activity ∧ (missOldest s).ring.reception = s.ring.reception
      ∧ (missOldest s).ring.forward = s.ring.forward ∧ (missOldest s).ring.ownSeq = s.ring.ownSeq
      ∧ (missOldest s).ring.tx = s.ring.tx ∧ (missOldest s).attention.mask = s.attention.mask := by
  simp [missOldest]

@[simp] theorem watchAdd_keeps (q : Byte) (s : State) :
    (watchAdd q s).now = s.now ∧ (watchAdd q s).pwron = s.pwron ∧ (watchAdd q s).warm = s.warm
      ∧ (watchAdd q s).points = s.points ∧ (watchAdd q s).sections = s.sections ∧ (watchAdd q s).peer = s.peer
      ∧ (watchAdd q s).reports = s.reports ∧ (watchAdd q s).requests = s.requests ∧ (watchAdd q s).tables = s.tables
      ∧ (watchAdd q s).freeCount = s.freeCount ∧ (watchAdd q s).pending = s.pending
      ∧ (watchAdd q s).ring.ownAddress = s.ring.ownAddress ∧ (watchAdd q s).ring.condition = s.ring.condition
      ∧ (watchAdd q s).ring.activity = s.ring.activity ∧ (watchAdd q s).ring.reception = s.ring.reception
      ∧ (watchAdd q s).ring.forward = s.ring.forward ∧ (watchAdd q s).ring.ownSeq = s.ring.ownSeq
      ∧ (watchAdd q s).ring.tx = s.ring.tx ∧ (watchAdd q s).attention.mask = s.attention.mask := by
  unfold watchAdd; dsimp only; split <;> simp

@[simp] theorem stripped_keeps (t : Telegram) (s : State) :
    (stripped t s).now = s.now ∧ (stripped t s).pwron = s.pwron ∧ (stripped t s).warm = s.warm
      ∧ (stripped t s).points = s.points ∧ (stripped t s).sections = s.sections ∧ (stripped t s).peer = s.peer
      ∧ (stripped t s).reports = s.reports ∧ (stripped t s).requests = s.requests ∧ (stripped t s).tables = s.tables
      ∧ (stripped t s).attention = s.attention ∧ (stripped t s).freeCount = s.freeCount
      ∧ (stripped t s).pending = s.pending ∧ (stripped t s).ring.ownAddress = s.ring.ownAddress
      ∧ (stripped t s).ring.condition = s.ring.condition ∧ (stripped t s).ring.activity = s.ring.activity
      ∧ (stripped t s).ring.reception = s.ring.reception ∧ (stripped t s).ring.forward = s.ring.forward
      ∧ (stripped t s).ring.ownSeq = s.ring.ownSeq ∧ (stripped t s).ring.tx = s.ring.tx := by
  unfold stripped; split <;> simp

@[simp] theorem forwardTelegram_keeps (t : Telegram) (s : State) :
    (forwardTelegram t s).now = s.now ∧ (forwardTelegram t s).pwron = s.pwron ∧ (forwardTelegram t s).warm = s.warm
      ∧ (forwardTelegram t s).points = s.points ∧ (forwardTelegram t s).sections = s.sections
      ∧ (forwardTelegram t s).peer = s.peer ∧ (forwardTelegram t s).reports = s.reports
      ∧ (forwardTelegram t s).requests = s.requests ∧ (forwardTelegram t s).tables = s.tables
      ∧ (forwardTelegram t s).freeCount = s.freeCount ∧ (forwardTelegram t s).pending = s.pending
      ∧ (forwardTelegram t s).ring.ownAddress = s.ring.ownAddress
      ∧ (forwardTelegram t s).ring.condition = s.ring.condition
      ∧ (forwardTelegram t s).ring.activity = s.ring.activity
      ∧ (forwardTelegram t s).ring.reception = s.ring.reception ∧ (forwardTelegram t s).ring.ownSeq = s.ring.ownSeq
      ∧ (forwardTelegram t s).ring.watch = s.ring.watch ∧ (forwardTelegram t s).ring.missRun = s.ring.missRun
      ∧ (forwardTelegram t s).ring.loop = s.ring.loop ∧ (forwardTelegram t s).ring.tx = s.ring.tx
      ∧ (forwardTelegram t s).attention.mask = s.attention.mask := by
  unfold forwardTelegram; split <;> simp

@[simp] theorem leavePeer_keeps (st : PeerState) (s : State) :
    (leavePeer st s).now = s.now ∧ (leavePeer st s).pwron = s.pwron ∧ (leavePeer st s).warm = s.warm
      ∧ (leavePeer st s).ring = s.ring ∧ (leavePeer st s).points = s.points ∧ (leavePeer st s).sections = s.sections
      ∧ (leavePeer st s).reports = s.reports ∧ (leavePeer st s).requests = s.requests
      ∧ (leavePeer st s).tables = s.tables ∧ (leavePeer st s).attention = s.attention
      ∧ (leavePeer st s).freeCount = s.freeCount ∧ (leavePeer st s).pending = s.pending
      ∧ (leavePeer st s).peer.silence = s.peer.silence := by
  simp [leavePeer]

@[simp] theorem checkVersion_keeps (v : BitVec 16) (s : State) :
    (checkVersion v s).now = s.now ∧ (checkVersion v s).pwron = s.pwron ∧ (checkVersion v s).warm = s.warm
      ∧ (checkVersion v s).ring = s.ring ∧ (checkVersion v s).points = s.points
      ∧ (checkVersion v s).sections = s.sections ∧ (checkVersion v s).reports = s.reports
      ∧ (checkVersion v s).requests = s.requests ∧ (checkVersion v s).tables = s.tables
      ∧ (checkVersion v s).freeCount = s.freeCount ∧ (checkVersion v s).pending = s.pending
      ∧ (checkVersion v s).peer.silence = s.peer.silence ∧ (checkVersion v s).attention.mask = s.attention.mask := by
  unfold checkVersion
  repeat' split
  all_goals simp

@[simp] theorem takeEntry_keeps (s : State) (e : ReportEntry) :
    (takeEntry s e).now = s.now ∧ (takeEntry s e).pwron = s.pwron ∧ (takeEntry s e).warm = s.warm
      ∧ (takeEntry s e).ring = s.ring ∧ (takeEntry s e).points = s.points ∧ (takeEntry s e).requests = s.requests
      ∧ (takeEntry s e).tables = s.tables ∧ (takeEntry s e).attention = s.attention
      ∧ (takeEntry s e).freeCount = s.freeCount ∧ (takeEntry s e).pending = s.pending
      ∧ (takeEntry s e).sections.sideMap = s.sections.sideMap ∧ (takeEntry s e).peer.state = s.peer.state
      ∧ (takeEntry s e).peer.silence = s.peer.silence
      ∧ (takeEntry s e).reports.cyclePointer = s.reports.cyclePointer
      ∧ (takeEntry s e).reports.cycleTimer = s.reports.cycleTimer := by
  unfold takeEntry; dsimp only; split
  · split <;> simp
  · simp

@[simp] theorem foldl_takeEntry_keeps (l : List ReportEntry) (s : State) :
    (l.foldl takeEntry s).now = s.now ∧ (l.foldl takeEntry s).pwron = s.pwron ∧ (l.foldl takeEntry s).warm = s.warm
      ∧ (l.foldl takeEntry s).ring = s.ring ∧ (l.foldl takeEntry s).points = s.points
      ∧ (l.foldl takeEntry s).requests = s.requests ∧ (l.foldl takeEntry s).tables = s.tables
      ∧ (l.foldl takeEntry s).attention = s.attention ∧ (l.foldl takeEntry s).freeCount = s.freeCount
      ∧ (l.foldl takeEntry s).pending = s.pending ∧ (l.foldl takeEntry s).sections.sideMap = s.sections.sideMap
      ∧ (l.foldl takeEntry s).peer.state = s.peer.state ∧ (l.foldl takeEntry s).peer.silence = s.peer.silence
      ∧ (l.foldl takeEntry s).reports.cyclePointer = s.reports.cyclePointer
      ∧ (l.foldl takeEntry s).reports.cycleTimer = s.reports.cycleTimer := by
  induction l generalizing s with
  | nil => simp
  | cons e l ih => simpa using ih (takeEntry s e)

@[simp] theorem restartSilence_keeps (s : State) :
    (restartSilence s).now = s.now ∧ (restartSilence s).pwron = s.pwron ∧ (restartSilence s).warm = s.warm
      ∧ (restartSilence s).ring = s.ring ∧ (restartSilence s).points = s.points
      ∧ (restartSilence s).sections = s.sections ∧ (restartSilence s).reports = s.reports
      ∧ (restartSilence s).requests = s.requests ∧ (restartSilence s).tables = s.tables
      ∧ (restartSilence s).attention = s.attention ∧ (restartSilence s).freeCount = s.freeCount
      ∧ (restartSilence s).pending = s.pending ∧ (restartSilence s).peer.state = s.peer.state
      ∧ (restartSilence s).peer.entries = s.peer.entries ∧ (restartSilence s).peer.compare = s.peer.compare := by
  unfold restartSilence; split <;> simp

@[simp] theorem takeReport_keeps (r : Report) (s : State) :
    (takeReport r s).now = s.now ∧ (takeReport r s).pwron = s.pwron ∧ (takeReport r s).warm = s.warm
      ∧ (takeReport r s).ring = s.ring ∧ (takeReport r s).points = s.points ∧ (takeReport r s).requests = s.requests
      ∧ (takeReport r s).tables = s.tables ∧ (takeReport r s).freeCount = s.freeCount
      ∧ (takeReport r s).pending = s.pending ∧ (takeReport r s).sections.sideMap = s.sections.sideMap
      ∧ (takeReport r s).reports.cyclePointer = s.reports.cyclePointer
      ∧ (takeReport r s).reports.cycleTimer = s.reports.cycleTimer
      ∧ (takeReport r s).attention.mask = s.attention.mask := by
  unfold takeReport; dsimp only; split <;> simp

@[simp] theorem snoopReport_keeps (t : Telegram) (s : State) :
    (snoopReport t s).now = s.now ∧ (snoopReport t s).pwron = s.pwron ∧ (snoopReport t s).warm = s.warm
      ∧ (snoopReport t s).ring = s.ring ∧ (snoopReport t s).points = s.points
      ∧ (snoopReport t s).requests = s.requests ∧ (snoopReport t s).tables = s.tables
      ∧ (snoopReport t s).freeCount = s.freeCount ∧ (snoopReport t s).pending = s.pending
      ∧ (snoopReport t s).sections.sideMap = s.sections.sideMap
      ∧ (snoopReport t s).reports.cyclePointer = s.reports.cyclePointer
      ∧ (snoopReport t s).reports.cycleTimer = s.reports.cycleTimer
      ∧ (snoopReport t s).attention.mask = s.attention.mask := by
  unfold snoopReport; split
  · simp
  · split <;> simp

@[simp] theorem snoop_keeps (t : Telegram) (s : State) :
    (snoop t s).now = s.now ∧ (snoop t s).pwron = s.pwron ∧ (snoop t s).warm = s.warm ∧ (snoop t s).ring = s.ring
      ∧ (snoop t s).requests = s.requests ∧ (snoop t s).tables = s.tables ∧ (snoop t s).freeCount = s.freeCount
      ∧ (snoop t s).pending = s.pending ∧ (snoop t s).sections.sideMap = s.sections.sideMap
      ∧ (snoop t s).reports.cyclePointer = s.reports.cyclePointer
      ∧ (snoop t s).reports.cycleTimer = s.reports.cycleTimer ∧ (snoop t s).attention.mask = s.attention.mask
      ∧ (snoop t s).points.processing = s.points.processing ∧ (snoop t s).points.request = s.points.request := by
  unfold snoop; split
  · simp
  · split <;> simp

@[simp] theorem consume_keeps (t : Telegram) (s : State) :
    (consume t s).now = s.now ∧ (consume t s).pwron = s.pwron ∧ (consume t s).warm = s.warm
      ∧ (consume t s).ring = s.ring ∧ (consume t s).freeCount = s.freeCount ∧ (consume t s).pending = s.pending
      ∧ (consume t s).sections.sideMap = s.sections.sideMap ∧ (consume t s).tables.version = s.tables.version := by
  unfold consume; split <;> simp

@[simp] theorem consumeAndForward_keeps (t : Telegram) (s : State) :
    (consumeAndForward t s).now = s.now ∧ (consumeAndForward t s).pwron = s.pwron
      ∧ (consumeAndForward t s).warm = s.warm ∧ (consumeAndForward t s).pending = s.pending
      ∧ (consumeAndForward t s).sections.sideMap = s.sections.sideMap
      ∧ (consumeAndForward t s).tables.version = s.tables.version
      ∧ (consumeAndForward t s).ring.reception = s.ring.reception ∧ (consumeAndForward t s).ring.tx = s.ring.tx
      ∧ (consumeAndForward t s).ring.condition = s.ring.condition
      ∧ (consumeAndForward t s).ring.activity = s.ring.activity
      ∧ (consumeAndForward t s).ring.ownAddress = s.ring.ownAddress
      ∧ (consumeAndForward t s).ring.ownSeq = s.ring.ownSeq ∧ (consumeAndForward t s).ring.watch = s.ring.watch
      ∧ (consumeAndForward t s).ring.missRun = s.ring.missRun ∧ (consumeAndForward t s).ring.loop = s.ring.loop := by
  unfold consumeAndForward; dsimp only; split
  · simp
  · split <;> simp

@[simp] theorem accept_keeps (t : Telegram) (s : State) :
    (accept t s).now = s.now ∧ (accept t s).pwron = s.pwron ∧ (accept t s).warm = s.warm
      ∧ (accept t s).pending = s.pending ∧ (accept t s).sections.sideMap = s.sections.sideMap
      ∧ (accept t s).tables.version = s.tables.version ∧ (accept t s).ring.reception = s.ring.reception
      ∧ (accept t s).ring.tx = s.ring.tx ∧ (accept t s).ring.condition = s.ring.condition
      ∧ (accept t s).ring.activity = s.ring.activity ∧ (accept t s).ring.ownAddress = s.ring.ownAddress
      ∧ (accept t s).ring.ownSeq = s.ring.ownSeq := by
  unfold accept; split <;> simp

@[simp] theorem received_keeps (b : List Byte) (x y : Bool) (s : State) :
    (received b x y s).now = s.now ∧ (received b x y s).pwron = s.pwron ∧ (received b x y s).warm = s.warm
      ∧ (received b x y s).pending = s.pending ∧ (received b x y s).sections.sideMap = s.sections.sideMap
      ∧ (received b x y s).tables.version = s.tables.version ∧ (received b x y s).ring.reception = s.ring.reception
      ∧ (received b x y s).ring.tx = s.ring.tx ∧ (received b x y s).ring.condition = s.ring.condition
      ∧ (received b x y s).ring.activity = s.ring.activity ∧ (received b x y s).ring.ownAddress = s.ring.ownAddress
      ∧ (received b x y s).ring.ownSeq = s.ring.ownSeq := by
  unfold received; split
  · simp
  · split <;> simp

@[simp] theorem closeBad_keeps (s : State) :
    (closeBad s).now = s.now ∧ (closeBad s).pwron = s.pwron ∧ (closeBad s).warm = s.warm
      ∧ (closeBad s).points = s.points ∧ (closeBad s).sections = s.sections ∧ (closeBad s).peer = s.peer
      ∧ (closeBad s).reports = s.reports ∧ (closeBad s).requests = s.requests ∧ (closeBad s).tables = s.tables
      ∧ (closeBad s).freeCount = s.freeCount ∧ (closeBad s).pending = s.pending
      ∧ (closeBad s).ring.ownAddress = s.ring.ownAddress ∧ (closeBad s).ring.condition = s.ring.condition
      ∧ (closeBad s).ring.activity = s.ring.activity ∧ (closeBad s).ring.forward = s.ring.forward
      ∧ (closeBad s).ring.ownSeq = s.ring.ownSeq ∧ (closeBad s).ring.watch = s.ring.watch
      ∧ (closeBad s).ring.missRun = s.ring.missRun ∧ (closeBad s).ring.loop = s.ring.loop
      ∧ (closeBad s).ring.tx = s.ring.tx ∧ (closeBad s).attention.mask = s.attention.mask := by
  unfold closeBad; split <;> simp

@[simp] theorem lineDown_keeps (s : State) :
    (lineDown s).now = s.now ∧ (lineDown s).pwron = s.pwron ∧ (lineDown s).warm = s.warm
      ∧ (lineDown s).points = s.points ∧ (lineDown s).sections = s.sections ∧ (lineDown s).peer = s.peer
      ∧ (lineDown s).reports = s.reports ∧ (lineDown s).requests = s.requests ∧ (lineDown s).tables = s.tables
      ∧ (lineDown s).freeCount = s.freeCount ∧ (lineDown s).pending = s.pending
      ∧ (lineDown s).ring.ownAddress = s.ring.ownAddress ∧ (lineDown s).ring.forward = s.ring.forward
      ∧ (lineDown s).ring.ownSeq = s.ring.ownSeq ∧ (lineDown s).ring.watch = s.ring.watch
      ∧ (lineDown s).ring.missRun = s.ring.missRun ∧ (lineDown s).ring.tx = s.ring.tx
      ∧ (lineDown s).attention.mask = s.attention.mask := by
  simp [lineDown]

@[simp] theorem warmRestart_keeps (s : State) :
    (warmRestart s).now = s.now ∧ (warmRestart s).pwron = s.pwron ∧ (warmRestart s).warm = s.warm
      ∧ (warmRestart s).freeCount = s.freeCount ∧ (warmRestart s).pending = s.pending
      ∧ (warmRestart s).sections.sideMap = s.sections.sideMap ∧ (warmRestart s).tables.points = s.tables.points
      ∧ (warmRestart s).tables.sections = s.tables.sections ∧ (warmRestart s).tables.params = s.tables.params
      ∧ (warmRestart s).tables.activated = s.tables.activated ∧ (warmRestart s).tables.version = s.tables.version
      ∧ (warmRestart s).ring.ownAddress = s.ring.ownAddress ∧ (warmRestart s).ring.condition = s.ring.condition := by
  simp [warmRestart, RingInterface.restarted, State.restartedTables]

@[simp] theorem transmissionEnd_keeps (t : Telegram) (c : TxClass) (s : State) :
    (transmissionEnd t c s).now = s.now ∧ (transmissionEnd t c s).pwron = s.pwron
      ∧ (transmissionEnd t c s).warm = s.warm ∧ (transmissionEnd t c s).freeCount = s.freeCount
      ∧ (transmissionEnd t c s).pending = s.pending ∧ (transmissionEnd t c s).sections.sideMap = s.sections.sideMap
      ∧ (transmissionEnd t c s).tables.points = s.tables.points
      ∧ (transmissionEnd t c s).tables.sections = s.tables.sections
      ∧ (transmissionEnd t c s).tables.params = s.tables.params
      ∧ (transmissionEnd t c s).tables.activated = s.tables.activated
      ∧ (transmissionEnd t c s).tables.version = s.tables.version
      ∧ (transmissionEnd t c s).ring.ownAddress = s.ring.ownAddress
      ∧ (transmissionEnd t c s).ring.condition = s.ring.condition := by
  unfold transmissionEnd; dsimp only; split <;> simp

@[simp] theorem peerLost_keeps (s : State) :
    (peerLost s).now = s.now ∧ (peerLost s).pwron = s.pwron ∧ (peerLost s).warm = s.warm
      ∧ (peerLost s).ring = s.ring ∧ (peerLost s).points = s.points ∧ (peerLost s).sections = s.sections
      ∧ (peerLost s).reports = s.reports ∧ (peerLost s).requests = s.requests ∧ (peerLost s).tables = s.tables
      ∧ (peerLost s).freeCount = s.freeCount ∧ (peerLost s).pending = s.pending
      ∧ (peerLost s).attention.mask = s.attention.mask := by
  simp [peerLost]

end Sys2Proof.Machine
end

