-- ==== Sys2Proof/Laws/Told.lean ====
section
/-! SUPPORT. What telling the neighbours does (R69): queueing for report, evaluation, and a section record written and told
about. One lemma per operation says all of it; the others say how two of them in a row compose. -/

namespace Sys2Proof.Machine

/-! ## Queueing -/

theorem newcomers_cons (s : State) (i : SectionIndex) (l : List SectionIndex) :
    s.newcomers (i :: l) =
      (if s.sectionConfigured i && !s.reports.queue.contains i then [i] else []) ++ s.newcomers l := by
  unfold State.newcomers
  rw [List.filter_cons]; split <;> simp

@[simp] theorem newcomers_nil (s : State) : s.newcomers [] = [] := rfl

/-- Nothing queued. -/
theorem queues_refl (s : State) : Queues [] s s := ⟨by simp, by simp, rfl, rfl⟩

/-- A request to queue one section (R114, R120). -/
theorem queueReport_queues (i : SectionIndex) (s : State) : Queues [i] s (queueReport i s) := by
  unfold queueReport
  by_cases h : (s.sectionConfigured i && !s.reports.queue.contains i) = true
  · rw [if_pos h]
    have hn : s.newcomers [i] = [i] := by rw [newcomers_cons, if_pos h]; simp
    refine ⟨?_, ?_, by simp, by simp⟩
    · rw [hn]; unfold State.joinQueue; dsimp only; split <;> simp
    · rw [hn]
      unfold State.joinQueue State.startHold State.freshHold State.startTimer State.reportingActive
      dsimp only
      by_cases hq : s.reports.queue = []
      · cases hp : s.tables.params with
        | none => simp [hq]
        | some r =>
          cases hs : s.tables.sections with
          | nil => simp [hq]
          | cons a l => simp [hq]
      · have : s.reports.queue.isEmpty = false := by simpa using hq
        simp [hq]
  · rw [if_neg h]
    have hn : s.newcomers [i] = [] := by rw [newcomers_cons, if_neg h]; simp
    exact ⟨by simp [hn], by simp [hn], rfl, rfl⟩

theorem newcomers_of {s t : State} (ht : t.tables = s.tables) {l : List SectionIndex}
    (hq : t.reports.queue = s.reports.queue) : t.newcomers l = s.newcomers l := by
  simp only [State.newcomers, State.sectionConfigured, ht, hq]

theorem freshHold_of {s t : State} (ht : t.tables = s.tables) (hn : t.now = s.now)
    (hh : t.reports.hold = s.reports.hold) : t.freshHold = s.freshHold := by
  simp only [State.freshHold, ht, hn, hh]

/-- Queueing one list after another. -/
theorem Queues.append {l₁ l₂ : List SectionIndex} {s t u : State} (ht : t.tables = s.tables) (hn : t.now = s.now)
    (hd : ∀ i ∈ l₂, i ∉ l₁) (h₁ : Queues l₁ s t) (h₂ : Queues l₂ t u) : Queues (l₁ ++ l₂) s u := by
  have hnew : t.newcomers l₂ = s.newcomers l₂ := by
    unfold State.newcomers
    apply List.filter_congr
    intro i hi
    have : i ∉ s.newcomers l₁ := fun h => hd i hi (List.mem_of_mem_filter h)
    have hc : t.sectionConfigured i = s.sectionConfigured i := by simp only [State.sectionConfigured, ht]
    rw [hc, h₁.queue]
    simp [this]
  have happ : s.newcomers (l₁ ++ l₂) = s.newcomers l₁ ++ s.newcomers l₂ := by simp [State.newcomers]
  refine ⟨?_, ?_, h₂.pointer.trans h₁.pointer, h₂.timer.trans h₁.timer⟩
  · rw [h₂.queue, h₁.queue, hnew, happ, List.append_assoc]
  · rw [h₂.hold, hnew, happ]
    by_cases hq : s.reports.queue = []
    · by_cases h1 : s.newcomers l₁ = []
      · have ht1 : t.reports.queue = [] := by rw [h₁.queue, hq, h1]; rfl
        have hh : t.reports.hold = s.reports.hold := by rw [h₁.hold, if_neg (by simp [h1])]
        simp [ht1, hq, h1, freshHold_of ht hn hh, hh]
      · have ht1 : t.reports.queue ≠ [] := by rw [h₁.queue, hq]; simpa using h1
        rw [if_neg (by simp [ht1]), h₁.hold, if_pos ⟨hq, h1⟩, if_pos ⟨hq, by simp [h1]⟩]
    · have ht1 : t.reports.queue ≠ [] := by rw [h₁.queue]; simp [hq]
      rw [if_neg (by simp [ht1]), h₁.hold, if_neg (by simp [hq]), if_neg (by simp [hq])]

/-- Every section of a list without repeats queued in turn (R114, R116). -/
theorem foldl_queueReport_queues (l : List SectionIndex) (hl : l.Nodup) (s : State) :
    Queues l s (l.foldl (fun t i => queueReport i t) s) := by
  induction l generalizing s with
  | nil => exact queues_refl s
  | cons i l ih =>
    rw [List.nodup_cons] at hl
    have := (queueReport_queues i s).append (l₂ := l) (u := l.foldl (fun t i => queueReport i t) (queueReport i s))
      (by simp) (by simp) (by intro j hj h; simp at h; exact hl.1 (h ▸ hj)) (ih hl.2 (queueReport i s))
    simpa using this

theorem configuredSections_nodup (s : State) : s.configuredSections.Nodup :=
  (List.nodup_finRange 32).filter _

/-- Every configured section queued (R116). -/
theorem queueAllSections_queues (s : State) : Queues s.configuredSections s (queueAllSections s) :=
  foldl_queueReport_queues _ (configuredSections_nodup s) s

/-! ## Evaluation -/

/-- Nothing evaluated. -/
theorem evaluates_refl (s : State) : Evaluates [] s s := ⟨rfl, rfl, rfl, by simp⟩

theorem disagree_of {s t : State} {i : SectionIndex} (ht : t.tables.sections = s.tables.sections)
    (hp : t.peer.state = s.peer.state) (he : t.peer.entries = s.peer.entries) (hs : t.sect i = s.sect i) :
    t.disagree i = s.disagree i := by
  simp only [State.disagree, State.sectionConfigured, State.peerEntry, ht, hp, he, hs]

/-- The evaluation of one section (Table 5-3). -/
theorem evaluate_evaluates (i : SectionIndex) (s : State) : Evaluates [i] s (evaluate i s) := by
  refine ⟨by simp, by simp, ?_, ?_⟩
  · unfold evaluate; repeat' split
    all_goals simp
  · intro j
    have hd : ∀ k, (evaluate i s).disagree k = s.disagree k := by
      intro k
      apply disagree_of (by simp) (by simp)
      · unfold evaluate; repeat' split
        all_goals simp
      · exact sect_congr (by simp) k
    rw [hd]
    unfold evaluate State.freshCompare State.startTimer
    cases hp : s.tables.params with
    | none => simp
    | some r =>
      by_cases hdis : s.disagree i = true
      · simp only [hdis, if_true]
        cases hc : s.compareTimer i with
        | none => 
          simp only [setCompare_compareTimer]
          by_cases hj : j = i
          · subst hj; simp [hdis, hc]
          · simp [hj]
        | some m =>
          by_cases hj : j = i
          · subst hj; simp [hdis, hc]
          · simp [hj]
      · simp only [hdis, if_neg, Bool.false_eq_true, not_false_eq_true, setCompare_compareTimer]
        by_cases hj : j = i
        · subst hj; simp [hdis]
        · simp [hj]

/-- Evaluation of one list of sections and then of another. -/
theorem Evaluates.append {l₁ l₂ : List SectionIndex} {s t u : State} (ht : t.tables = s.tables) (hn : t.now = s.now)
    (hu : u.tables = t.tables)
    (hd : ∀ i ∈ l₁, i ∉ l₂ ∧ u.sect i = t.sect i) (h₁ : Evaluates l₁ s t) (h₂ : Evaluates l₂ t u) :
    Evaluates (l₁ ++ l₂) s u := by
  refine ⟨h₂.state.trans h₁.state, h₂.silence.trans h₁.silence, h₂.entries.trans h₁.entries, fun i => ?_⟩
  rw [h₂.compare i, h₁.compare i]
  have hf : t.freshCompare = s.freshCompare := by simp only [State.freshCompare, ht, hn]
  by_cases h1 : i ∈ l₁
  · obtain ⟨h2, hs⟩ := hd i h1
    have hdis : u.disagree i = t.disagree i := disagree_of (by rw [hu]) h₂.state h₂.entries hs
    simp [h1, h2, hdis]
  · simp [h1, hf, ht]

/-! ## Telling -/

/-- Nothing told. -/
theorem told_refl (s : State) : Told [] s s := ⟨queues_refl s, evaluates_refl s⟩

/-- A section told of to the neighbours (R69). -/
theorem tell_told (i : SectionIndex) (s : State) : Told [i] s (tell i s) := by
  have hq := queueReport_queues i s
  have he := evaluate_evaluates i (queueReport i s)
  refine ⟨⟨by simpa [tell] using hq.queue, by simpa [tell] using hq.hold, by simp [tell], by simp [tell]⟩,
    ⟨by simp [tell], by simp [tell], ?_, ?_⟩⟩
  · exact he.entries.trans (by simp)
  · intro j
    have hf : (queueReport i s).freshCompare = s.freshCompare := by simp [State.freshCompare]
    have hct : (queueReport i s).compareTimer j = s.compareTimer j := by simp [State.compareTimer]
    have ht : (queueReport i s).tables = s.tables := by simp
    show (evaluate i (queueReport i s)).compareTimer j = _
    rw [he.compare j, hf, hct, ht]
    rfl

/-- Telling of one list of sections and then of another. -/
theorem Told.append {l₁ l₂ : List SectionIndex} {s t u : State} (ht : t.tables = s.tables) (hn : t.now = s.now)
    (hu : u.tables = t.tables) (hd : ∀ i ∈ l₁, i ∉ l₂ ∧ u.sect i = t.sect i)
    (h₁ : Told l₁ s t) (h₂ : Told l₂ t u) : Told (l₁ ++ l₂) s u :=
  ⟨h₁.queues.append ht hn (fun i hi h => (hd i h).1 hi) h₂.queues,
    h₁.evaluates.append ht hn hu hd h₂.evaluates⟩

/-- `Told` looks at its first state only through tables, time, peer and reports. -/
theorem Told.congr {l : List SectionIndex} {s s' t : State} (ht : s'.tables = s.tables) (hn : s'.now = s.now)
    (hp : s'.peer = s.peer) (hr : s'.reports = s.reports) (h : Told l s t) : Told l s' t := by
  have hnew : s'.newcomers l = s.newcomers l := newcomers_of ht (by rw [hr])
  have hh : s'.freshHold = s.freshHold := freshHold_of ht hn (by rw [hr])
  have hf : s'.freshCompare = s.freshCompare := by simp only [State.freshCompare, ht, hn]
  refine ⟨⟨?_, ?_, ?_, ?_⟩, ⟨?_, ?_, ?_, ?_⟩⟩
  · rw [h.queues.queue, hnew, hr]
  · rw [h.queues.hold, hnew, hr, hh]
  · rw [h.queues.pointer, hr]
  · rw [h.queues.timer, hr]
  · rw [h.evaluates.state, hp]
  · rw [h.evaluates.silence, hp]
  · rw [h.evaluates.entries, hp]
  · intro i; rw [h.evaluates.compare i, hf, ht]; simp only [State.compareTimer, hp]

/-- `Told` looks at its last state only through peer, reports, sections and tables. -/
theorem Told.congr_right {l : List SectionIndex} {s t t' : State} (ht : t'.tables = t.tables)
    (hp : t'.peer = t.peer) (hr : t'.reports = t.reports) (hs : t'.sections = t.sections) (h : Told l s t) :
    Told l s t' := by
  refine ⟨⟨?_, ?_, ?_, ?_⟩, ⟨?_, ?_, ?_, ?_⟩⟩
  · rw [hr, h.queues.queue]
  · rw [hr, h.queues.hold]
  · rw [hr, h.queues.pointer]
  · rw [hr, h.queues.timer]
  · rw [hp, h.evaluates.state]
  · rw [hp, h.evaluates.silence]
  · rw [hp, h.evaluates.entries]
  · intro i
    have hd : t'.disagree i = t.disagree i :=
      disagree_of (by rw [ht]) (by rw [hp]) (by rw [hp]) (by simp only [State.sect, hs])
    have hc : t'.compareTimer i = t.compareTimer i := by simp only [State.compareTimer, hp]
    rw [hd, hc, h.evaluates.compare i]

/-! ## A section record written -/

/-- Two states that agree on every block but three. -/
theorem eq_with_track {s t : State} (h : t.now = s.now ∧ t.pwron = s.pwron ∧ t.warm = s.warm ∧ t.ring = s.ring
    ∧ t.points = s.points ∧ t.requests = s.requests ∧ t.tables = s.tables ∧ t.attention = s.attention
    ∧ t.freeCount = s.freeCount ∧ t.pending = s.pending) :
    t = { s with sections := t.sections, peer := t.peer, reports := t.reports } := by
  cases s; cases t; simp_all

theorem changed_singleton (i : SectionIndex) (s t : State) :
    changed [i] s t = if (t.sect i).state = (s.sect i).state ∧ (t.sect i).count = (s.sect i).count then [] else [i] := by
  unfold changed
  by_cases h : (t.sect i).state = (s.sect i).state ∧ (t.sect i).count = (s.sect i).count
  · simp [h]
  · rw [if_neg h]
    simp only [List.filter_cons, List.filter_nil]
    rw [if_pos]
    simp only [Bool.or_eq_true, decide_eq_true_eq]
    tauto

/-- One record written (R69). -/
theorem commitSect_sect (s : State) (i j : SectionIndex) (r : SectionRecord) :
    (s.commitSect i r).sect j = if j = i then r else s.sect j := by
  rw [← setSect_sect]
  unfold State.commitSect
  dsimp only
  split
  · rfl
  · exact sect_congr (by simp) j

/-- The neighbours are told of a record that has changed its state or count (R69). -/
theorem commitSect_told (s : State) (i : SectionIndex) (r : SectionRecord) :
    Told (changed [i] s (s.commitSect i r)) s (s.commitSect i r) := by
  rw [changed_singleton, commitSect_sect, if_pos rfl]
  unfold State.commitSect
  dsimp only
  split
  · exact (told_refl _).congr (by simp) (by simp) (by simp) (by simp)
  · exact (tell_told i _).congr (by simp) (by simp) (by simp) (by simp)

/-- Everything else is as it was. -/
theorem commitSect_frame (s : State) (i : SectionIndex) (r : SectionRecord) :
    s.commitSect i r =
      { s with
        sections := (s.commitSect i r).sections
        peer := (s.commitSect i r).peer
        reports := (s.commitSect i r).reports } :=
  eq_with_track (by simp)

/-! ## Two sections in turn -/

theorem changed_append (l₁ l₂ : List SectionIndex) (s t : State) :
    changed (l₁ ++ l₂) s t = changed l₁ s t ++ changed l₂ s t := by simp [changed]

theorem changed_congr {l : List SectionIndex} {s s' t t' : State} (h : ∀ i ∈ l, s'.sect i = s.sect i ∧ t'.sect i = t.sect i) :
    changed l s' t' = changed l s t := by
  unfold changed
  apply List.filter_congr
  intro i hi
  rw [(h i hi).1, (h i hi).2]

theorem mem_changed {l : List SectionIndex} {s t : State} {i : SectionIndex} (h : i ∈ changed l s t) : i ∈ l :=
  List.mem_of_mem_filter h

/-- Two actions at two different sections, each told. -/
theorem told_two {a b : SectionIndex} (hab : a ≠ b) {s t u : State} (ht : t.tables = s.tables) (hn : t.now = s.now)
    (hu : u.tables = t.tables)
    (hta : ∀ j, j ≠ a → t.sect j = s.sect j) (hub : ∀ j, j ≠ b → u.sect j = t.sect j)
    (h₁ : Told (changed [a] s t) s t) (h₂ : Told (changed [b] t u) t u) : Told (changed [a, b] s u) s u := by
  have e : changed [a, b] s u = changed [a] s t ++ changed [b] t u := by
    rw [show [a, b] = [a] ++ [b] from rfl, changed_append]
    congr 1
    · exact changed_congr (by intro i hi; simp at hi; subst hi; exact ⟨rfl, hub _ hab⟩)
    · exact changed_congr (by intro i hi; simp at hi; subst hi; exact ⟨(hta _ hab.symm).symm, rfl⟩)
  rw [e]
  refine h₁.append ht hn hu ?_ h₂
  intro i hi
  have : i = a := by simpa using mem_changed hi
  subst this
  exact ⟨fun h => hab (by simpa using mem_changed h), hub _ hab⟩

end Sys2Proof.Machine
end

