-- ==== Sys2Proof/Laws/Effects.lean ====
section
/-! SUPPORT. What the operations that many commands share do, each said once in the terms of Safety.lean: disturbances and
the entry into FAULTED, occupancy, completed passes, misses and the warm restart. -/

namespace Sys2Proof.Machine

/-! ## Disturbances and FAULTED (R13, R65) -/

theorem nowDisturbed_eq (r : SectionRecord) (c : SectionCause) : r.enterDisturbed c = r.nowDisturbed c := rfl

/-- The frame of a disturbance. -/
theorem disturb_frame (c : SectionCause) (i : SectionIndex) (s : State) :
    disturb c i s =
      { s with
        sections := (disturb c i s).sections
        peer := (disturb c i s).peer
        reports := (disturb c i s).reports
        attention := { s.attention with latches := s.attention.latches ||| entryLatch [i] s (disturb c i s) } } := by
  unfold disturb
  by_cases h : (s.sect i).state = .disturbed
  · simp [h, entryLatch]
  · rw [if_neg h]
    have he : entryLatch [i] s ((s.commitSect i ((s.sect i).enterDisturbed c)).raise .sectionDisturbed)
        = Latch.sectionDisturbed.mask := by
      unfold entryLatch
      rw [if_pos]
      have : ((s.commitSect i ((s.sect i).enterDisturbed c)).raise .sectionDisturbed).sect i
          = (s.sect i).enterDisturbed c := by
        rw [sect_congr (s := s.commitSect i ((s.sect i).enterDisturbed c)) (by simp), commitSect_sect, if_pos rfl]
      simp only [List.any_cons, List.any_nil, this]
      simp [h, SectionRecord.enterDisturbed, SectionRecord.enter]
    rw [he]
    conv_lhs => rw [commitSect_frame]
    simp [State.raise]

/-- A disturbance of one section (R65). -/
theorem disturb_disturbs (c : SectionCause) (i : SectionIndex) (s : State) : Disturbs c [i] s (disturb c i s) := by
  unfold disturb
  by_cases h : (s.sect i).state = .disturbed
  · rw [if_pos h]
    refine ⟨fun j => ?_, rfl, ?_⟩
    · by_cases hj : j = i
      · subst hj; simp [h]
      · simp [hj]
    · rw [changed_singleton]; simpa using told_refl s
  · rw [if_neg h]
    have hs : ∀ j, ((s.commitSect i ((s.sect i).enterDisturbed c)).raise .sectionDisturbed).sect j =
        (s.commitSect i ((s.sect i).enterDisturbed c)).sect j := fun j => sect_congr (by simp) j
    refine ⟨fun j => ?_, by simp, ?_⟩
    · rw [hs, commitSect_sect]
      by_cases hj : j = i
      · subst hj; simp [h, nowDisturbed_eq]
      · simp [hj]
    · have := commitSect_told s i ((s.sect i).enterDisturbed c)
      rw [changed_singleton] at this ⊢
      rw [hs]
      exact this.congr_right (by simp) (by simp) (by simp) (by simp)

theorem sidesOf_congr {s t : State} (h : t.sections.sideMap = s.sections.sideMap) (p : PointIndex) :
    t.sidesOf p = s.sidesOf p := by
  simp only [State.sidesOf, sides_congr h]

theorem entryLatch_append (l₁ l₂ : List SectionIndex) (s t : State) :
    entryLatch (l₁ ++ l₂) s t = entryLatch l₁ s t ||| entryLatch l₂ s t := by
  unfold entryLatch
  rw [List.any_append]
  generalize (l₁.any _) = a
  generalize (l₂.any _) = b
  cases a <;> cases b <;> simp

theorem entryLatch_congr {l : List SectionIndex} {s s' t t' : State}
    (h : ∀ i ∈ l, s'.sect i = s.sect i ∧ t'.sect i = t.sect i) : entryLatch l s' t' = entryLatch l s t := by
  unfold entryLatch
  have : (l.any fun i => decide ((s'.sect i).state ≠ .disturbed) && decide ((t'.sect i).state = .disturbed))
      = (l.any fun i => decide ((s.sect i).state ≠ .disturbed) && decide ((t.sect i).state = .disturbed)) := by
    rw [Bool.eq_iff_iff]
    simp only [List.any_eq_true]
    constructor <;> rintro ⟨i, hi, hh⟩ <;> refine ⟨i, hi, ?_⟩
    · rwa [(h i hi).1, (h i hi).2] at hh
    · rwa [(h i hi).1, (h i hi).2]
  rw [this]

theorem disturb_sect_ne (c : SectionCause) (i j : SectionIndex) (s : State) (h : j ≠ i) :
    (disturb c i s).sect j = s.sect j := by
  rw [(disturb_disturbs c i s).records j, if_neg (by simp [h])]

/-- A disturbance of both sections of a point (R47, R65). -/
theorem disturb_two (c : SectionCause) (a b : SectionIndex) (hab : a ≠ b) (s : State) :
    Disturbs c [a, b] s (disturb c b (disturb c a s)) := by
  have h₁ := disturb_disturbs c a s
  have h₂ := disturb_disturbs c b (disturb c a s)
  refine ⟨fun j => ?_, h₂.sideMap.trans h₁.sideMap, ?_⟩
  · rw [h₂.records j, h₁.records j]
    by_cases ha : j = a
    · subst ha; simp [hab]
    · by_cases hb : j = b
      · subst hb
        simp [ha]
      · simp [ha, hb]
  · exact told_two hab (by simp) (by simp) (by simp) (fun j hj => disturb_sect_ne c a j s hj)
      (fun j hj => disturb_sect_ne c b j _ hj) h₁.told h₂.told

/-- A second disturbance changes nothing (R65). -/
theorem disturb_twice (c : SectionCause) (a : SectionIndex) (s : State) :
    disturb c a (disturb c a s) = disturb c a s := by
  have : ((disturb c a s).sect a).state = .disturbed := by
    rw [(disturb_disturbs c a s).records a]
    by_cases h : (s.sect a).state = .disturbed
    · simp [h]
    · simp [h, SectionRecord.nowDisturbed]
  generalize disturb c a s = t at *
  unfold disturb
  rw [if_pos this]

/-- The notice of a point that has become faulted, to the sections on its sides (R47, R65). -/
theorem faultNotice_spec (p : PointIndex) (s : State) :
    Disturbs .pointFault (s.sidesOf p) s (faultNotice p s)
      ∧ faultNotice p s =
        { s with
          sections := (faultNotice p s).sections
          peer := (faultNotice p s).peer
          reports := (faultNotice p s).reports
          attention :=
            { s.attention with latches := s.attention.latches ||| entryLatch (s.sidesOf p) s (faultNotice p s) } } := by
  have hs : ∀ t : State, t.sections.sideMap = s.sections.sideMap → t.sides p = s.sides p := fun t h => sides_congr h p
  unfold faultNotice State.sidesOf
  cases ha : (s.sides p).sideA with
  | none =>
    cases hb : (s.sides p).sideB with
    | none =>
      refine ⟨⟨by simp [atSide], rfl, ?_⟩, ?_⟩
      · simpa [atSide, changed] using told_refl s
      · simp [atSide, entryLatch]
    | some b => exact ⟨disturb_disturbs _ _ _, disturb_frame _ _ _⟩
  | some a =>
    cases hb : (s.sides p).sideB with
    | none => exact ⟨disturb_disturbs _ _ _, disturb_frame _ _ _⟩
    | some b =>
      simp only [atSide]
      by_cases hab : a = b
      · subst hab
        rw [if_pos rfl, disturb_twice]
        exact ⟨disturb_disturbs _ _ _, disturb_frame _ _ _⟩
      · rw [if_neg hab]
        refine ⟨disturb_two _ a b hab s, ?_⟩
        have e : entryLatch [a, b] s (disturb .pointFault b (disturb .pointFault a s))
            = entryLatch [a] s (disturb .pointFault a s)
              ||| entryLatch [b] (disturb .pointFault a s) (disturb .pointFault b (disturb .pointFault a s)) := by
          rw [show [a, b] = [a] ++ [b] from rfl, entryLatch_append]
          congr 1
          · exact entryLatch_congr (by
              intro i hi; simp at hi; subst hi; exact ⟨rfl, disturb_sect_ne _ _ _ _ hab⟩)
          · exact entryLatch_congr (by
              intro i hi; simp at hi; subst hi
              exact ⟨(disturb_sect_ne _ _ _ _ (Ne.symm hab)).symm, rfl⟩)
        rw [e]
        conv_lhs => rw [disturb_frame]
        rw [show (disturb .pointFault a s).attention.latches
            = s.attention.latches ||| entryLatch [a] s (disturb .pointFault a s) by
              conv_lhs => rw [disturb_frame]]
        rw [BitVec.or_assoc]
        simp

theorem eq_with_points {s t : State} (h : t.now = s.now ∧ t.pwron = s.pwron ∧ t.warm = s.warm ∧ t.ring = s.ring
    ∧ t.points.queue = s.points.queue ∧ t.points.processing = s.points.processing
    ∧ t.points.request = s.points.request ∧ t.requests = s.requests ∧ t.tables = s.tables
    ∧ t.freeCount = s.freeCount ∧ t.pending = s.pending ∧ t.attention.mask = s.attention.mask) :
    t =
      { s with
        points := { s.points with records := t.points.records }
        sections := t.sections
        peer := t.peer
        reports := t.reports
        attention := { s.attention with latches := t.attention.latches } } := by
  obtain ⟨now, pw, wm, rg, ⟨r, q, pr, rq⟩, sc, pe, rp, rqs, tb, ⟨la, mk⟩, fc, pn⟩ := s
  obtain ⟨now', pw', wm', rg', ⟨r', q', pr', rq'⟩, sc', pe', rp', rqs', tb', ⟨la', mk'⟩, fc', pn'⟩ := t
  simp_all

theorem disturbs_congr {c : SectionCause} {l : List SectionIndex} {s s' t t' : State}
    (h : Disturbs c l s t) (hs : s'.sections = s.sections) (ht : s'.tables = s.tables) (hn : s'.now = s.now)
    (hp : s'.peer = s.peer) (hr : s'.reports = s.reports)
    (hs' : t'.sections = t.sections) (ht' : t'.tables = t.tables) (hp' : t'.peer = t.peer)
    (hr' : t'.reports = t.reports) : Disturbs c l s' t' := by
  have e : ∀ i, s'.sect i = s.sect i := fun i => sect_congr (by rw [hs]) i
  have e' : ∀ i, t'.sect i = t.sect i := fun i => sect_congr (by rw [hs']) i
  refine ⟨fun i => ?_, ?_, ?_⟩
  · rw [e, e', h.records i]
  · rw [hs', h.sideMap, hs]
  · rw [changed_congr (fun i _ => ⟨e i, e' i⟩)]
    exact (h.told.congr ht hn hp hr).congr_right ht' hp' hr' hs'

theorem supervisionTimer_eq (s : State) (p : PointIndex) :
    s.supervisionTimer p = (s.pointEntry p).map fun e => { start := s.now, length := e.window * 10 } := by
  unfold State.supervisionTimer State.startTimer
  cases s.pointEntry p <;> rfl

/-- An entry into FAULTED (R13). -/
theorem enterFaulted_spec (p : PointIndex) (c : FaultCause) (s : State) :
    EntersFaulted p c s (enterFaulted p c s) := by
  obtain ⟨hd, hf⟩ := faultNotice_spec p (s.setPoint p ((s.point p).enterFaulted c (s.supervisionTimer p)))
  have hsides : (s.setPoint p ((s.point p).enterFaulted c (s.supervisionTimer p))).sidesOf p = s.sidesOf p :=
    sidesOf_congr (by simp) p
  refine ⟨eq_with_points (by simp), fun q => ?_, ?_, ?_⟩
  · have : (enterFaulted p c s).point q
        = (s.setPoint p ((s.point p).enterFaulted c (s.supervisionTimer p))).point q :=
      point_congr (by simp [enterFaulted]) q
    rw [this, setPoint_point, supervisionTimer_eq]
    rfl
  · rw [hsides] at hd
    exact disturbs_congr hd (by simp) (by simp) (by simp) (by simp) (by simp) (by simp [enterFaulted])
      (by simp [enterFaulted]) (by simp [enterFaulted]) (by simp [enterFaulted])
  · have hl : (faultNotice p (s.setPoint p ((s.point p).enterFaulted c (s.supervisionTimer p)))).attention.latches
        = s.attention.latches ||| entryLatch (s.sidesOf p)
          (s.setPoint p ((s.point p).enterFaulted c (s.supervisionTimer p)))
          (faultNotice p (s.setPoint p ((s.point p).enterFaulted c (s.supervisionTimer p)))) := by
      conv_lhs => rw [hf]
      rw [hsides]; simp
    have e : entryLatch (s.sidesOf p) s (enterFaulted p c s) = entryLatch (s.sidesOf p)
          (s.setPoint p ((s.point p).enterFaulted c (s.supervisionTimer p)))
          (faultNotice p (s.setPoint p ((s.point p).enterFaulted c (s.supervisionTimer p)))) :=
      entryLatch_congr fun i _ => ⟨sect_congr (by simp) i, sect_congr (by simp [enterFaulted]) i⟩
    rw [e, ← hl]
    simp [enterFaulted]

theorem timerDue_some (m : Timer) (now : Time) :
    timerDue (some m) now = decide (m.length ≤ (now - m.start).toNat) := rfl

theorem timerDue_iff (t : Option Timer) (now : Time) :
    timerDue t now = true ↔ ∃ m, t = some m ∧ m.length ≤ (now - m.start).toNat := by
  cases t with
  | none => simp [timerDue]
  | some m => rw [timerDue_some]; simp [-BitVec.toNat_sub]

theorem timerDue_false {t : Option Timer} {now : Time} (h : ∀ m, t = some m → (now - m.start).toNat < m.length) :
    timerDue t now = false := by
  rw [← Bool.not_eq_true, timerDue_iff]
  rintro ⟨m, hm, hl⟩
  exact absurd (h m hm) (by omega)

theorem setPoint_setPoint (s : State) (p : PointIndex) (a b : PointRecord) :
    (s.setPoint p a).setPoint p b = s.setPoint p b := by
  simp [State.setPoint, Vector.set_set]

theorem enterFaulted_setSeq (p : PointIndex) (c : FaultCause) (s : State) (q : Option Byte) :
    enterFaulted p c (s.setPoint p { s.point p with seqRef := q }) = enterFaulted p c s := by
  unfold enterFaulted
  rw [setPoint_setPoint, setPoint_point_same]
  rfl

/-! ## Occupancy (R56..R63) -/

theorem occupiedWith_iff (s : State) (n : Nat) (i : SectionIndex) :
    (decide (0 < n) || s.wheelAtBoundary i) = true ↔ s.OccupiedWith n i := by
  simp only [Bool.or_eq_true, decide_eq_true_eq, State.wheelAtBoundary, List.any_eq_true, State.wheelOver,
    Bool.and_eq_true, State.OccupiedWith]

theorem occupiedWith_congr {s t : State} (hp : t.points.records = s.points.records)
    (ht : t.tables.sections = s.tables.sections) (n : Nat) (i : SectionIndex) :
    t.OccupiedWith n i ↔ s.OccupiedWith n i := by
  simp only [State.OccupiedWith, boundaries_congr ht, point_congr hp]

theorem settleTimer_eq (s : State) (i : SectionIndex) : s.settleTimer i = s.freshSettle i := by
  unfold State.settleTimer State.freshSettle State.startTimer
  cases s.sectionEntry i <;> rfl

theorem derive_rederives {n : Nat} {i : SectionIndex} {s t : State} {occ : Bool} (ho : occ = true ↔ t.OccupiedWith n i)
    (h : t.sect i = ({ s.sect i with count := n } : SectionRecord).derive occ (s.freshSettle i)) :
    Rederives n i s t := by
  have hn : occ = false ↔ ¬t.OccupiedWith n i := by rw [← ho]; simp
  constructor
  · rintro (e | e) <;> rw [h] <;> simp [SectionRecord.derive, e]
  · rintro (e | e) o <;> rw [h, ho.2 o] <;> simp [SectionRecord.derive, e]
  · rintro (e | e) o <;> rw [h, hn.2 o] <;>
      simp [SectionRecord.derive, SectionRecord.enterSettling, SectionRecord.enter, e]
  · rintro (e | e) o <;> rw [h, ho.2 o] <;> simp [SectionRecord.derive, SectionRecord.enter, e]
  · rintro e o; rw [h, ho.2 o]; simp [SectionRecord.derive, SectionRecord.enter, e]
  · rintro (e | e | e) o <;> rw [h, hn.2 o] <;> simp [SectionRecord.derive, e]

theorem rederive_sect_ne (i j : SectionIndex) (s : State) (h : j ≠ i) : (rederive i s).sect j = s.sect j := by
  rw [rederive, commitSect_sect, if_neg h]

/-- Re-deriving the occupancy of one section (R56..R63). -/
theorem rederive_rederives (i : SectionIndex) (s : State) : Rederives (s.sect i).count i s (rederive i s) := by
  apply derive_rederives (occ := s.occupied i)
  · rw [show s.occupied i = (decide (0 < (s.sect i).count) || s.wheelAtBoundary i) from rfl, occupiedWith_iff]
    exact (occupiedWith_congr (by simp) (by simp) _ _).symm
  · rw [rederive, commitSect_sect, if_pos rfl, settleTimer_eq]

theorem rederive_told (i : SectionIndex) (s : State) : Told (changed [i] s (rederive i s)) s (rederive i s) :=
  commitSect_told s i _

theorem rederives_congr {n : Nat} {i : SectionIndex} {s s' t t' : State} (h : Rederives n i s t)
    (hs : s'.sect i = s.sect i) (ht : t'.sect i = t.sect i) (hf : s'.freshSettle i = s.freshSettle i)
    (hp : t'.points.records = t.points.records) (htb : t'.tables.sections = t.tables.sections) :
    Rederives n i s' t' := by
  have ho : t'.OccupiedWith n i ↔ t.OccupiedWith n i := occupiedWith_congr hp htb n i
  constructor
  · rw [hs, ht]; exact h.held
  · rw [hs, ht, ho]; exact h.busy
  · rw [hs, ht, ho, hf]; exact h.empties
  · rw [hs, ht, ho]; exact h.approached
  · rw [hs, ht, ho]; exact h.unsettled
  · rw [hs, ht, ho]; exact h.quiet

theorem freshSettle_congr {s t : State} (ht : t.tables.sections = s.tables.sections) (hn : t.now = s.now)
    (i : SectionIndex) : t.freshSettle i = s.freshSettle i := by
  simp only [State.freshSettle, hn, State.sectionEntry, ht]

theorem reoccupies_singleton (i : SectionIndex) (s : State) : Reoccupies [i] s (rederive i s) :=
  ⟨by intro j hj; simp at hj; subst hj; exact rederive_rederives j s,
    fun j hj => rederive_sect_ne i j s (by simpa using hj), by simp, rederive_told i s⟩

theorem commitSect_same (s : State) (i : SectionIndex) : s.commitSect i (s.sect i) = s := by
  unfold State.commitSect
  simp only [and_self, if_true]
  unfold State.setSect State.sect
  have : s.sections.records.set i.val (s.sections.records.get i) i.isLt = s.sections.records := by
    simp [Vector.get_eq_getElem]
  rw [this]

/-- A second derivation changes nothing. -/
theorem rederive_twice (i : SectionIndex) (s : State) : rederive i (rederive i s) = rederive i s := by
  have h : (rederive i s).sect i = (s.sect i).derive (s.occupied i) (s.settleTimer i) := by
    rw [rederive, commitSect_sect, if_pos rfl]
  have hw : (rederive i s).wheelAtBoundary i = s.wheelAtBoundary i := by
    have : ∀ p, (rederive i s).wheelOver p = s.wheelOver p := fun p => by
      simp only [State.wheelOver, point_congr (s := s) (t := rederive i s) (by simp)]
    simp only [State.wheelAtBoundary, this, boundaries_congr (s := s) (t := rederive i s) (by simp)]
  have hc : ((rederive i s).sect i).count = (s.sect i).count := by
    rw [h]; unfold SectionRecord.derive; repeat' split
    all_goals rfl
  have ho : (rederive i s).occupied i = s.occupied i := by
    simp only [State.occupied, hw, hc]
  have ht : (rederive i s).settleTimer i = s.settleTimer i := by
    rw [settleTimer_eq, settleTimer_eq]; exact freshSettle_congr (by simp) (by simp) i
  have hd : ((rederive i s).sect i).derive ((rederive i s).occupied i) ((rederive i s).settleTimer i)
      = (rederive i s).sect i := by
    rw [ho, ht, h]
    cases hst : (s.sect i).state <;> cases hoc : s.occupied i <;>
      simp [SectionRecord.derive, SectionRecord.enter, SectionRecord.enterSettling, hst]
  conv_lhs => rw [rederive, hd, commitSect_same]

/-- Leaving IDLE and rollback to IDLE, at the sections of the point (R35). -/
theorem announceOccupancy_spec (p : PointIndex) (s : State) :
    Reoccupies (s.sidesOf p) s (announceOccupancy p s) := by
  unfold announceOccupancy State.sidesOf
  cases ha : (s.sides p).sideA with
  | none =>
    cases hb : (s.sides p).sideB with
    | none =>
      exact ⟨by simp, by simp [atSide], rfl, by simpa [atSide, changed] using told_refl s⟩
    | some b => exact reoccupies_singleton b s
  | some a =>
    cases hb : (s.sides p).sideB with
    | none => exact reoccupies_singleton a s
    | some b =>
      simp only [atSide]
      by_cases hab : a = b
      · subst hab; rw [if_pos rfl, rederive_twice]; exact reoccupies_singleton a s
      · rw [if_neg hab]
        refine ⟨?_, fun j hj => ?_, by simp, ?_⟩
        · intro j hj
          have hj' : j = a ∨ j = b := by simpa using hj
          rcases hj' with rfl | rfl
          · exact rederives_congr (rederive_rederives j s) rfl (rederive_sect_ne _ _ _ hab) rfl (by simp) (by simp)
          · have e : (rederive a s).sect j = s.sect j := rederive_sect_ne _ _ _ (Ne.symm hab)
            have := rederive_rederives j (rederive a s)
            rw [e] at this
            exact rederives_congr this e.symm rfl (freshSettle_congr (by simp) (by simp) j) rfl rfl
        · have : j ≠ a ∧ j ≠ b := by simpa using hj
          rw [rederive_sect_ne _ _ _ this.2, rederive_sect_ne _ _ _ this.1]
        · exact told_two hab (by simp) (by simp) (by simp) (fun j hj => rederive_sect_ne _ _ _ hj)
            (fun j hj => rederive_sect_ne _ _ _ hj) (rederive_told a s) (rederive_told b _)

theorem reoccupies_congr {l : List SectionIndex} {s s' t : State} (h : Reoccupies l s t)
    (hs : s'.sections = s.sections) (ht : s'.tables = s.tables) (hn : s'.now = s.now)
    (hp : s'.peer = s.peer) (hr : s'.reports = s.reports) : Reoccupies l s' t := by
  have e : ∀ i, s'.sect i = s.sect i := fun i => sect_congr (by rw [hs]) i
  refine ⟨fun i hi => ?_, fun i hi => ?_, ?_, ?_⟩
  · rw [e i]
    exact rederives_congr (h.named i hi) (e i) rfl (freshSettle_congr (by rw [ht]) hn i) rfl rfl
  · rw [h.others i hi, e]
  · rw [h.sideMap, hs]
  · rw [changed_congr (fun i _ => ⟨e i, rfl⟩)]
    exact h.told.congr ht hn hp hr

/-! ## Completed passes (Table 3-7) -/

theorem countAt_sect_ne (ch : CountChange) (i j : SectionIndex) (s : State) (h : j ≠ i) :
    (countAt ch i s).sect j = s.sect j := by
  unfold countAt; split
  · exact disturb_sect_ne _ _ _ _ h
  · rw [commitSect_sect, if_neg h]

theorem countAt_told (ch : CountChange) (i : SectionIndex) (s : State) :
    Told (changed [i] s (countAt ch i s)) s (countAt ch i s) := by
  unfold countAt; split
  · exact (disturb_disturbs _ i s).told
  · exact commitSect_told _ _ _

/-- The record after the count step and the derived occupancy, when no disturbance is raised. -/
theorem countAt_record {ch : CountChange} {i : SectionIndex} {s : State} {r : SectionRecord}
    (h : (s.sect i).countStep ch = .record r) :
    (countAt ch i s).sect i = r.derive (decide (0 < r.count) || s.wheelAtBoundary i) (s.freshSettle i) := by
  unfold countAt; rw [h]; dsimp only; rw [commitSect_sect, if_pos rfl, settleTimer_eq]

theorem countAt_disturbed {ch : CountChange} {i : SectionIndex} {s : State} {c : SectionCause}
    (h : (s.sect i).countStep ch = .disturbance c) (hd : (s.sect i).state ≠ .disturbed) :
    (countAt ch i s).sect i = (s.sect i).nowDisturbed c := by
  unfold countAt; rw [h]; dsimp only
  rw [(disturb_disturbs c i s).records i, if_pos ⟨by simp, hd⟩]

/-- A completed pass at one section (Table 3-7). -/
theorem countAt_passes (ch : CountChange) (i : SectionIndex) (s : State) : Passes ch i s (countAt ch i s) := by
  have hocc : ∀ n, (decide (0 < n) || s.wheelAtBoundary i) = true ↔ (countAt ch i s).OccupiedWith n i := fun n => by
    rw [occupiedWith_iff]; exact (occupiedWith_congr (by simp) (by simp) n i).symm
  constructor
  · intro h
    have : (s.sect i).countStep ch = .record (s.sect i) := by cases ch <;> simp [SectionRecord.countStep, h]
    rw [countAt_record this]; simp [SectionRecord.derive, h]
  · intro h hc
    subst hc
    have : (s.sect i).countStep .decrement = .record (s.sect i) := by simp [SectionRecord.countStep, h]
    rw [countAt_record this]; simp [SectionRecord.derive, h]
  · intro h hc hn
    subst hc
    have : (s.sect i).countStep .increment
        = .record { (s.sect i).enter .sweepRun with count := (s.sect i).count + 1 } := by
      simp only [SectionRecord.countStep, h]; rw [if_neg (by omega)]
    rw [countAt_record this]; simp [SectionRecord.derive, SectionRecord.enter]
  · intro h hc hn
    subst hc
    have : (s.sect i).countStep .increment = .disturbance .overflow := by
      revert h; unfold SectionRecord.countStep
      cases (s.sect i).state <;> simp [hn]
    exact countAt_disturbed this h
  · intro h h2 hc hn
    subst hc
    have : (s.sect i).countStep .decrement = .disturbance .underflow := by
      revert h h2; unfold SectionRecord.countStep
      cases (s.sect i).state <;> simp [hn]
    exact countAt_disturbed this h
  · intro h h2 hc hn
    subst hc
    have : (s.sect i).countStep .increment = .record { s.sect i with count := (s.sect i).count + 1 } := by
      have hn' : ¬1023 ≤ (s.sect i).count := by omega
      revert h h2; unfold SectionRecord.countStep
      cases hst : (s.sect i).state <;> simp [hn', hst]
    exact derive_rederives (hocc _) (countAt_record this)
  · intro h h2 hc hn
    subst hc
    have : (s.sect i).countStep .decrement = .record { s.sect i with count := (s.sect i).count - 1 } := by
      have hn' : (s.sect i).count ≠ 0 := by omega
      revert h h2; unfold SectionRecord.countStep
      cases hst : (s.sect i).state <;> simp [hn', hst]
    exact derive_rederives (hocc _) (countAt_record this)

theorem passes_congr {ch : CountChange} {i : SectionIndex} {s s' t t' : State} (h : Passes ch i s t)
    (hs : s'.sect i = s.sect i) (ht : t'.sect i = t.sect i) (hf : s'.freshSettle i = s.freshSettle i)
    (hp : t'.points.records = t.points.records) (htb : t'.tables.sections = t.tables.sections) :
    Passes ch i s' t' := by
  constructor
  · rw [hs, ht]; exact h.disturbed
  · rw [hs, ht]; exact h.clamp
  · rw [hs, ht]; exact h.sweep
  · rw [hs, ht]; exact h.overflow
  · rw [hs, ht]; exact h.underflow
  · rw [hs]; exact fun a b c d => rederives_congr (h.increment a b c d) hs ht hf hp htb
  · rw [hs]; exact fun a b c d => rederives_congr (h.decrement a b c d) hs ht hf hp htb

theorem passChange_a (d : Direction) : passChange .a d = changeAtA d := by cases d <;> rfl
theorem passChange_b (d : Direction) : passChange .b d = changeAtB d := by cases d <;> rfl

theorem countStep_not_disturbed {x r : SectionRecord} {ch : CountChange} (h : x.countStep ch = .record r)
    (hx : x.state ≠ .disturbed) : r.state ≠ .disturbed := by
  revert h hx
  unfold SectionRecord.countStep
  cases hst : x.state <;> cases ch <;> simp only [ne_eq, reduceCtorEq, not_false_eq_true, not_true_eq_false] <;>
    (repeat' split) <;> simp only [CountOutcome.record.injEq, reduceCtorEq, false_implies, forall_const] <;>
    (try rintro rfl) <;> simp [SectionRecord.enter, hst]

theorem derive_disturbed {r : SectionRecord} {occ : Bool} {t : Option Timer}
    (h : (r.derive occ t).state = .disturbed) : r.state = .disturbed := by
  revert h
  unfold SectionRecord.derive
  cases hst : r.state <;> simp only [] <;> (repeat' split) <;>
    simp [SectionRecord.enter, SectionRecord.enterSettling, hst]

/-- Everything else is as it was, but for the latch of an entry into DISTURBED (R70). -/
theorem countAt_frame (ch : CountChange) (i : SectionIndex) (s : State) :
    countAt ch i s =
      { s with
        sections := (countAt ch i s).sections
        peer := (countAt ch i s).peer
        reports := (countAt ch i s).reports
        attention := { s.attention with latches := s.attention.latches ||| entryLatch [i] s (countAt ch i s) } } := by
  unfold countAt
  split
  · exact disturb_frame _ _ _
  · rename_i r hr
    have he :
        entryLatch [i] s
          (s.commitSect i (r.derive (decide (0 < r.count) || s.wheelAtBoundary i) (s.settleTimer i))) = 0 := by
      unfold entryLatch
      rw [if_neg]
      simp only [List.any_cons, List.any_nil, commitSect_sect, if_true]
      simp only [Bool.or_false, Bool.and_eq_true, decide_eq_true_eq, not_and]
      intro hne hd
      exact countStep_not_disturbed hr hne (derive_disturbed hd)
    rw [he]
    conv_lhs => rw [commitSect_frame]
    simp

/-- A completed pass at the sections of the point (R35, R50, R51). -/
theorem announcePass_spec (p : PointIndex) (d : Direction) (s : State)
    (hd : (s.sides p).sideA = none ∨ (s.sides p).sideA ≠ (s.sides p).sideB) :
    Counts p d s (announcePass p d s)
      ∧ announcePass p d s =
        { s with
          sections := (announcePass p d s).sections
          peer := (announcePass p d s).peer
          reports := (announcePass p d s).reports
          attention :=
            { s.attention with
              latches := s.attention.latches ||| entryLatch (s.sidesOf p) s (announcePass p d s) } } := by
  have hA : ∀ a, (s.sides p).sideA = some a → (s.sides p).sideB ≠ some a := by
    intro a ha hb
    rcases hd with h | h
    · rw [h] at ha; cases ha
    · exact h (ha.trans hb.symm)
  unfold announcePass
  cases ha : (s.sides p).sideA with
  | none =>
    cases hb : (s.sides p).sideB with
    | none =>
      have hso : s.sidesOf p = [] := by simp [State.sidesOf, ha, hb]
      refine ⟨⟨by simp [ha], by simp [hb], by simp [atSide], rfl, ?_⟩, ?_⟩
      · rw [hso]; simpa [atSide, changed] using told_refl s
      · rw [hso]; simp [atSide, entryLatch]
    | some b =>
      have hso : s.sidesOf p = [b] := by simp [State.sidesOf, ha, hb]
      refine ⟨⟨by simp [ha], fun i hi => ?_, fun j hj => ?_, by simp [atSide], ?_⟩, ?_⟩
      · rw [hb] at hi; cases hi; rw [passChange_b]; exact countAt_passes _ _ _
      · rw [hso] at hj; exact countAt_sect_ne _ _ _ _ (by simpa using hj)
      · rw [hso]; exact countAt_told _ _ _
      · rw [hso]; exact countAt_frame _ _ _
  | some a =>
    cases hb : (s.sides p).sideB with
    | none =>
      have hso : s.sidesOf p = [a] := by simp [State.sidesOf, ha, hb]
      refine ⟨⟨fun i hi => ?_, by simp [hb], fun j hj => ?_, by simp [atSide], ?_⟩, ?_⟩
      · rw [ha] at hi; cases hi; rw [passChange_a]; exact countAt_passes _ _ _
      · rw [hso] at hj; exact countAt_sect_ne _ _ _ _ (by simpa using hj)
      · rw [hso]; exact countAt_told _ _ _
      · rw [hso]; exact countAt_frame _ _ _
    | some b =>
      have hab : a ≠ b := fun e => hA a ha (by rw [hb, e])
      have hso : s.sidesOf p = [a, b] := by simp [State.sidesOf, ha, hb, hab]
      simp only [atSide]
      refine ⟨⟨fun i hi => ?_, fun i hi => ?_, fun j hj => ?_, by simp, ?_⟩, ?_⟩
      · rw [ha] at hi; cases hi; rw [passChange_a]
        exact passes_congr (countAt_passes (changeAtA d) a s) rfl (countAt_sect_ne _ _ _ _ hab) rfl (by simp) (by simp)
      · rw [hb] at hi; cases hi; rw [passChange_b]
        exact passes_congr (countAt_passes (changeAtB d) b (countAt (changeAtA d) a s))
          (countAt_sect_ne _ _ _ _ (Ne.symm hab)).symm rfl (freshSettle_congr (by simp) (by simp) _) rfl rfl
      · rw [hso] at hj
        have : j ≠ a ∧ j ≠ b := by simpa using hj
        rw [countAt_sect_ne _ _ _ _ this.2, countAt_sect_ne _ _ _ _ this.1]
      · rw [hso]
        exact told_two hab (by simp) (by simp) (by simp) (fun j hj => countAt_sect_ne _ _ _ _ hj)
          (fun j hj => countAt_sect_ne _ _ _ _ hj) (countAt_told _ a s) (countAt_told _ b _)
      · rw [hso]
        have e : entryLatch [a, b] s (countAt (changeAtB d) b (countAt (changeAtA d) a s))
            = entryLatch [a] s (countAt (changeAtA d) a s)
              ||| entryLatch [b] (countAt (changeAtA d) a s) (countAt (changeAtB d) b (countAt (changeAtA d) a s)) := by
          rw [show [a, b] = [a] ++ [b] from rfl, entryLatch_append]
          congr 1
          · exact entryLatch_congr (by
              intro i hi; simp at hi; subst hi; exact ⟨rfl, countAt_sect_ne _ _ _ _ hab⟩)
          · exact entryLatch_congr (by
              intro i hi; simp at hi; subst hi
              exact ⟨(countAt_sect_ne _ _ _ _ (Ne.symm hab)).symm, rfl⟩)
        rw [e]
        conv_lhs => rw [countAt_frame]
        rw [show (countAt (changeAtA d) a s).attention.latches
            = s.attention.latches ||| entryLatch [a] s (countAt (changeAtA d) a s) by
              conv_lhs => rw [countAt_frame]]
        rw [BitVec.or_assoc]
        simp

theorem counts_congr {p : PointIndex} {d : Direction} {s s' t t' : State} (h : Counts p d s t)
    (hs : s'.sections = s.sections) (ht : s'.tables = s.tables) (hn : s'.now = s.now)
    (hp : s'.peer = s.peer) (hr : s'.reports = s.reports)
    (hs' : t'.sections = t.sections) (ht' : t'.tables = t.tables)
    (hp' : t'.peer = t.peer) (hr' : t'.reports = t.reports)
    (hphase : ∀ n i, t'.OccupiedWith n i ↔ t.OccupiedWith n i) : Counts p d s' t' := by
  have e : ∀ i, s'.sect i = s.sect i := fun i => sect_congr (by rw [hs]) i
  have e' : ∀ i, t'.sect i = t.sect i := fun i => sect_congr (by rw [hs']) i
  have hsd : s'.sides p = s.sides p := sides_congr (by rw [hs]) p
  have hso : s'.sidesOf p = s.sidesOf p := sidesOf_congr (by rw [hs]) p
  have hf : ∀ i, s'.freshSettle i = s.freshSettle i := freshSettle_congr (by rw [ht]) hn
  have hred : ∀ n i, Rederives n i s t → Rederives n i s' t' := by
    intro n i h
    constructor
    · rw [e, e']; exact h.held
    · rw [e, e', hphase]; exact h.busy
    · rw [e, e', hphase, hf]; exact h.empties
    · rw [e, e', hphase]; exact h.approached
    · rw [e, e', hphase]; exact h.unsettled
    · rw [e, e', hphase]; exact h.quiet
  have hpas : ∀ ch i, Passes ch i s t → Passes ch i s' t' := by
    intro ch i h
    constructor
    · rw [e, e']; exact h.disturbed
    · rw [e, e']; exact h.clamp
    · rw [e, e']; exact h.sweep
    · rw [e, e']; exact h.overflow
    · rw [e, e']; exact h.underflow
    · rw [e]; exact fun a b c d => hred _ _ (h.increment a b c d)
    · rw [e]; exact fun a b c d => hred _ _ (h.decrement a b c d)
  refine ⟨fun i hi => hpas _ _ (h.sideA i (hsd ▸ hi)), fun i hi => hpas _ _ (h.sideB i (hsd ▸ hi)), fun i hi => ?_,
    ?_, ?_⟩
  · rw [e', e, h.others i (hso ▸ hi)]
  · rw [hs', h.sideMap, hs]
  · rw [hso, changed_congr (fun i _ => ⟨e i, e' i⟩)]
    exact (h.told.congr ht hn hp hr).congr_right ht' hp' hr' hs'

/-! ## Misses and the warm restart (R144, Table 10-6) -/

/-- A miss (R144). -/
theorem countMiss_misses (s : State) (w : List WatchRecord) :
    Misses w s (countMiss { s with ring := { s.ring with watch := w } }) := by
  unfold countMiss breakLoop State.raise
  dsimp only
  have hl :
      State.loopMissLimit { s with ring := { s.ring with watch := w, missRun := min 15 (s.ring.missRun + 1) } }
        = s.loopMissLimit := rfl
  rw [hl]
  by_cases h : s.loopMissLimit ≤ min 15 (s.ring.missRun + 1)
  · rw [if_pos h]
    cases hlp : s.ring.loop
    · rw [if_pos rfl]
      exact ⟨rfl, rfl, by simp [h], by simp [h, hlp]⟩
    · rw [if_neg (by simp)]
      exact ⟨by simp, rfl, by simp [h], by simp [hlp]⟩
  · rw [if_neg h]
    exact ⟨rfl, rfl, by simp [h], by simp [h]⟩

theorem configuredSections_of {s t : State} (h : t.tables.sections = s.tables.sections) :
    t.configuredSections = s.configuredSections := by
  simp only [State.configuredSections]
  exact List.filter_congr fun i _ => sectionConfigured_congr h i

theorem newcomers_configured (s : State) (hq : s.reports.queue = []) :
    s.newcomers s.configuredSections = s.configuredSections := by
  unfold State.newcomers State.configuredSections
  rw [List.filter_filter]
  apply List.filter_congr
  intro i _
  simp [hq]

/-- A warm restart (Table 10-6). -/
theorem warmRestart_spec (s : State) : WarmRestarts s (warmRestart s) := by
  let t : State :=
    { s with
      ring := s.ring.restarted
      requests := { answers := [], activation := none, restartPending := false }
      tables := s.restartedTables
      attention := attentionAfterReset .warmRestart }
  obtain ⟨st, hst⟩ : ∃ st : PointStatus, st = if s.tables.activated then .starting else .inactive := ⟨_, rfl⟩
  obtain ⟨c, hc⟩ : ∃ c : SectionCause, c = if s.tables.activated then .start else .config := ⟨_, rfl⟩
  let e := emptyReports (peerReset (resetPoints st t))
  have hw : warmRestart s = restartCycle (startSections c e) := by
    have : warmRestart s =
        restartCycle
          (startSections (if s.tables.activated then .start else .config)
            (emptyReports
              (peerReset (resetPoints (if s.tables.activated then .starting else .inactive) t)))) := rfl
    rw [this, ← hst, ← hc]
  have he : e.tables = s.restartedTables := by simp [e, t]
  have hq := queueAllSections_queues (setAllSections c e)
  have hres : ∀ q, (resetPoints st t).point q = PointRecord.initial (if s.pointConfigured q then st else .unused) := by
    intro q; simp [State.point, resetPoints]; rfl
  have hcfg : (setAllSections c e).configuredSections = s.configuredSections :=
    configuredSections_of (by simp [he, State.restartedTables])
  have hempty : (setAllSections c e).reports.queue = [] := by simp [e, emptyReports]
  have hhold : (setAllSections c e).reports.hold = .stopped := by simp [e, emptyReports]
  have hnew : (setAllSections c e).newcomers (setAllSections c e).configuredSections = s.configuredSections := by
    rw [newcomers_configured _ hempty, hcfg]
  have hpar : (setAllSections c e).tables.params = s.tables.params := by simp [he, State.restartedTables]
  have hsec : (setAllSections c e).tables.sections = s.tables.sections := by simp [he, State.restartedTables]
  have hnow : (setAllSections c e).now = s.now := by simp [e, t]
  constructor
  · simp
  · rw [hw]
    simp only [startSections, restartCycle_keeps, queueAllSections_keeps, setAllSections_keeps, e,
      emptyReports_keeps, peerReset_keeps, resetPoints_keeps, t]
    cases h : s.ring.tx <;> simp [RingInterface.restarted, Transmitter.cut, h]
  · rw [hw]
    simp only [startSections, restartCycle_keeps, queueAllSections_keeps, setAllSections_keeps, e,
      emptyReports_keeps, peerReset_keeps, resetPoints_keeps, t]
    cases h : s.ring.reception <;> simp [RingInterface.restarted, Reception.discarded, h]
  · rw [hw]
    simp only [startSections, restartCycle_keeps, queueAllSections_keeps, setAllSections_keeps, he]
    rfl
  · rw [hw]; simp [startSections, e, t]
  · rw [hw, ← hst]
    have hp : (restartCycle (startSections c e)).points = (resetPoints st t).points := by simp [startSections, e]
    exact ⟨fun q => (point_congr (by rw [hp]) q).trans (hres q), by rw [hp]; rfl, by rw [hp]; rfl, by rw [hp]; rfl⟩
  · rw [hw, ← hc]
    intro i
    have hs1 : (restartCycle (startSections c e)).sect i = (setAllSections c e).sect i := sect_congr (by simp [startSections]) i
    have hs2 : e.sect i = s.sect i := sect_congr (by simp [e, t]) i
    have hs3 : e.sectionConfigured i = s.sectionConfigured i := sectionConfigured_congr (by simp [he, State.restartedTables]) i
    rw [hs1, ← hs2, ← hs3]
    simp [State.sect, setAllSections]
  · simp
  · have hp : (warmRestart s).peer = (peerReset s).peer := by rw [hw]; simp [startSections, e]; rfl
    exact ⟨by rw [hp]; rfl, by rw [hp]; rfl, fun i => by simp [State.peerEntry, hp, peerReset],
      fun i => by simp [State.compareTimer, hp, peerReset]⟩
  · rw [hw]; simp only [restartCycle_keeps, startSections]
    rw [hq.queue, hnew, hempty]; rfl
  · rw [hw]; rfl
  · rw [hw]
    simp only [restartCycle, startSections, queueAllSections_keeps, hpar, hnow, State.startTimer,
      State.reportingActive, hsec, State.freshCycle]
    cases s.tables.params with
    | none => rfl
    | some r => cases s.tables.sections <;> simp
  · rw [hw]; simp only [restartCycle_keeps, startSections]
    rw [hq.hold, hnew, hempty, hhold]
    simp only [State.freshHold, hpar, hsec, hhold, hnow, true_and]
    have : s.configuredSections = [] ↔ s.tables.sections = [] := by
      constructor
      · intro h
        by_contra hne
        have : (0 : SectionIndex) ∈ s.configuredSections := by
          simp [State.configuredSections, State.sectionConfigured, List.length_pos_iff, hne]
        rw [h] at this; simp at this
      · intro h; simp [State.configuredSections, State.sectionConfigured, h]
    cases s.tables.params with
    | none => simp
    | some r => by_cases h : s.tables.sections = [] <;> simp [h, this]
  · rw [hw]; simp [startSections, e, t]; rfl

end Sys2Proof.Machine
end

