-- ==== Sys2Proof/Laws/Kept.lean ====
section
/-! SUPPORT. How a property of the state is shown to be kept by every step: `Kept` names what it must survive, `Kept.step`
draws the conclusion, and `Writes` covers the actions that only write records, latches and requests. -/

namespace Sys2Proof.Machine

theorem powered_next {s u t : State} (h : powered s u = .next t) : (s.pwron = true ∧ t = s) ∨ (s.pwron = false ∧ t = u) := by
  unfold powered at h; split at h <;> simp_all

/-- What a property must survive to be kept by every action the part takes, before the arbiter. -/
structure Kept (P : State → Prop) : Prop where
  pending : ∀ (q : List Instr) (s : State), P s → P { s with pending := q }
  tick : ∀ s : State, P s → P (tick s)
  draw : ∀ (n : Nat) (s : State), P s → P { s with freeCount := n }
  warm : ∀ (b : Bool) (s : State), P s → P { s with warm := b }
  raise : ∀ (l : Latch) (s : State), P s → P (s.raise l)
  powerOn : ∀ (pins : Byte) (s : State), P s → P (powerOn pins s)
  warmRestart : ∀ s : State, P s → P (warmRestart s)
  assertPwron : ∀ s : State, P s → P (assertPwron s)
  reception : ∀ (r : Reception) (s : State), r = .ready ∨ r = .skipping → P s →
    P { s with ring := { s.ring with reception := r } }
  startBit : ∀ (d : Byte) (g : Bool) (s : State), P s → P (startBit d g s)
  lineUp : ∀ (d : Byte) (g : Bool) (s : State), P s → P (lineUp d g s)
  lineDown : ∀ s : State, P s → P (lineDown s)
  ringFree : ∀ s : State, P s → P (ringFree s)
  stripped : ∀ (t : Telegram) (s : State), P s → P (stripped t s)
  forward : ∀ (t : Telegram) (s : State), P s → P (forwardTelegram t s)
  snoopHead : ∀ (t : Telegram) (s : State), P s → P (snoopHead t s)
  snoopReport : ∀ (t : Telegram) (s : State), P s → P (snoopReport t s)
  pushAnswer : ∀ (a : Answer) (s : State), s.requests.answers.length < 4 → P s → P (pushAnswer a s)
  acknowledge : ∀ (m : BitVec 16) (s : State), P s → P (s.acknowledge m)
  setAlarmMask : ∀ (m : BitVec 16) (s : State), P s → P (s.setAlarmMask m)
  clearSuspect : ∀ (p : PointIndex) (s : State), s.pointConfigured p = true → P s →
    P (s.setPoint p { s.point p with suspect := 0 })
  restore : ∀ (k : Restoration) (i : SectionIndex) (s : State), s.tables.mode = .service →
    s.sectionConfigured i = true → (s.sect i).state = .disturbed → s.firstNotReady k i = none → P s →
    P (s.commitSect i (s.restored k i))
  enterConfig : ∀ s : State, s.tables.mode ≠ .config → s.requests.activation = none → P s → P (enterConfig s)
  openLoad : ∀ (code count : Byte) (x : Staged) (s : State), s.tables.mode = .config → s.tables.load = none →
    s.requests.activation = none → loadOf code count = some x → P s →
    P (s.setLoad (some { staged := x, count := count.toNat, idle := s.idleTimer }))
  keepLoad : ∀ (l : Load) (s : State), s.tables.load = some l → P s → P (s.setLoad (some { l with idle := s.idleTimer }))
  dropLoad : ∀ s : State, P s → P (s.setLoad none)
  stage : ∀ (l : Load) (ps : List Byte) (s : State), s.tables.load = some l → l.staged.size < l.count →
    firstBadField (entryFieldChecks l.staged ps) = none → P s →
    P (s.setLoad (some { l with staged := stageEntry l.staged ps, idle := s.idleTimer }))
  closeLoad : ∀ (l : Load) (s : State), s.tables.load = some l → l.count ≤ l.staged.size → P s →
    P (closeLoad l.staged s)
  beginActivation : ∀ (a : Activation) (s : State), s.tables.mode = .config → s.tables.load = none →
    s.requests.activation = none → s.requests.answers.length < 4 → P s →
    P { s with
        requests := { s.requests with answers := s.requests.answers ++ [.reserved], activation := some a } }
  markRestart : ∀ s : State, P s → P { s with requests := { s.requests with restartPending := true } }
  takeRecord : ∀ s : State, s.mayTake = true → P s → P (takeRecord s)
  applyRecord : ∀ (r : EventRecord) (s : State), s.points.processing = some r → P s → P (applyRecord r s.taken)
  takeRequest : ∀ (q : FaultRequest) (s : State), s.points.request = some q → P s → P (takeRequest q s)
  supervision : ∀ (p : PointIndex) (s : State), s.supervisionDue p = true → P s → P (supervisionExpired p s)
  startLimit : ∀ s : State, s.startLimitDue = true → P s → P (startLimitExpired s)
  settle : ∀ (i : SectionIndex) (s : State), s.settleDue i = true → P s → P (s.commitSect i (s.settled i))
  compare : ∀ (i : SectionIndex) (s : State), s.compareDue i = true → P s → P (compareExpired i s)
  cycle : ∀ s : State, P s → P (cycle s)
  hold : ∀ s : State, P s → P (holdExpired s)
  transmissionEnd : ∀ (t : Telegram) (c : TxClass) (s : State), P s → P (transmissionEnd t c s)
  gapEnd : ∀ s : State, P s → P { s with ring := { s.ring with tx := .idle } }
  miss : ∀ s : State, P s → P (missOldest s)
  silence : ∀ s : State, P s → P (peerLost s)
  activationEnd : ∀ (a : Activation) (s : State), s.requests.activation = some a → P s → P (endActivation a s)

variable {P : State → Prop}

theorem Kept.answered (h : Kept P) {source code tag : Byte} {x : Executed} (hl : x.state.requests.answers.length < 4)
    (hp : P x.state) : P (answered source code tag x) := h.pushAnswer _ _ hl hp

theorem Kept.request (h : Kept P) (c : RequestCode) (source code tag : Byte) (ps : List Byte) (s : State)
    (hl : s.requests.answers.length < 4) (hb : s.requests.activation = none ∨ c.runsInFlight = true) (hp : P s) :
    P (executeRequest c source code tag ps s) := by
  have hw : c.runsInFlight = false → s.requests.activation = none := by
    intro hc; rcases hb with hb | hb
    · exact hb
    · rw [hc] at hb; cases hb
  have href : ∀ o d, P (Machine.answered source code tag (refuse s o d)) := fun o d => h.answered hl hp
  cases c <;> simp only [executeRequest]
  case readStatus => exact h.answered hl hp
  case readSection => unfold readSection; split
                      · exact href _ _
                      · exact h.answered hl hp
  case readPoint => unfold readPoint; split
                    · exact href _ _
                    · exact h.answered hl hp
  case ackAttention => exact h.answered hl (h.acknowledge _ _ hp)
  case setAlarmMask => exact h.answered hl (h.setAlarmMask _ _ hp)
  case clearSuspect =>
    unfold Machine.clearSuspect
    split
    · exact href _ _
    · rename_i p hcp
      refine h.answered (by simpa [done] using hl) (h.clearSuspect _ _ ?_ hp)
      unfold State.configuredPoint at hcp
      split at hcp
      · cases hcp
      · split at hcp
        · cases hcp; assumption
        · cases hcp
  case restoreSweep =>
    unfold restoreSection
    dsimp only
    split
    · exact href _ _
    rename_i hm
    split
    · exact href _ _
    rename_i i hi
    split
    · exact href _ _
    split
    · exact href _ _
    split
    · exact href _ _
    rename_i hd
    split
    · exact href _ _
    split
    · exact href _ _
    rename_i hr
    refine h.answered (by simpa [done] using hl) (h.restore _ _ _ (not_not.1 hm) ?_ (not_not.1 hd) hr hp)
    unfold State.configuredSection at hi
    split at hi
    · cases hi
    · split at hi
      · cases hi; assumption
      · cases hi
  case restoreDirect =>
    unfold restoreSection
    dsimp only
    split
    · exact href _ _
    rename_i hm
    split
    · exact href _ _
    rename_i i hi
    split
    · exact href _ _
    split
    · exact href _ _
    split
    · exact href _ _
    rename_i hd
    split
    · exact href _ _
    split
    · exact href _ _
    rename_i hr
    refine h.answered (by simpa [done] using hl) (h.restore _ _ _ (not_not.1 hm) ?_ (not_not.1 hd) hr hp)
    unfold State.configuredSection at hi
    split at hi
    · cases hi
    · split at hi
      · cases hi; assumption
      · cases hi
  case enterConfig =>
    unfold enterConfigRequest
    split
    · exact h.answered hl hp
    · rename_i hm; exact h.answered (by simpa [done] using hl) (h.enterConfig _ hm (hw rfl) hp)
  case loadOpen =>
    unfold Machine.loadOpen
    dsimp only
    split
    · exact href _ _
    rename_i hm
    split
    · exact href _ _
    rename_i hn
    split
    · exact href _ _
    rename_i x hx
    exact h.answered (by simpa [done] using hl) (h.openLoad _ _ _ _ (not_not.1 hm) hn (hw rfl) hx hp)
  case loadEntry =>
    unfold Machine.loadEntry
    dsimp only
    split
    · exact href _ _
    rename_i l hl'
    split
    · exact h.answered (by simpa [refuse] using hl) (h.keepLoad _ _ hl' hp)
    rename_i hc
    split
    · exact h.answered (by simpa [refuse] using hl) (h.dropLoad _ hp)
    split
    · exact h.answered (by simpa [refuse] using hl) (h.keepLoad _ _ hl' hp)
    rename_i hf
    exact h.answered (by simpa [done] using hl) (h.stage _ _ _ hl' (Nat.not_le.1 hc) hf hp)
  case loadClose =>
    unfold Machine.loadClose
    dsimp only
    split
    · exact href _ _
    rename_i l hl'
    split
    · exact href _ _
    rename_i hc
    exact h.answered (by simpa [done] using hl) (h.closeLoad _ _ hl' (Nat.not_lt.1 hc) hp)
  case activate =>
    unfold activateRequest
    dsimp only
    split
    · exact href _ _
    rename_i hm
    split
    · exact href _ _
    rename_i hn
    split
    · exact href _ _
    exact h.beginActivation _ _ (not_not.1 hm) (by simpa using hn) (hw rfl) hl hp
  case restart => exact h.pushAnswer _ _ hl (h.markRestart _ hp)

theorem Kept.handle (h : Kept P) (q : Request) (s : State) (hp : P s) : P (handleRequest q s) := by
  unfold handleRequest
  split
  · exact h.raise _ _ hp
  split
  · exact h.raise _ _ hp
  rename_i hl
  unfold formAndExecute
  split
  · split
    · exact h.answered (Nat.not_le.1 hl) hp
    · split
      · exact h.answered (Nat.not_le.1 hl) hp
      split
      · exact h.answered (Nat.not_le.1 hl) hp
      · rename_i hb
        refine h.request _ _ _ _ _ _ (Nat.not_le.1 hl) ?_ hp
        simp only [Bool.and_eq_true, Option.isSome_iff_ne_none, Bool.not_eq_true'] at hb
        by_cases ha : s.requests.activation = none
        · exact .inl ha
        · refine .inr ?_
          by_contra hc; exact hb ⟨ha, by simpa using hc⟩
  · exact hp

theorem Kept.accept (h : Kept P) (t : Telegram) (s : State) (hp : P s) : P (accept t s) := by
  have hcon : ∀ s, P s → P (consume t s) := by
    intro s hp; unfold consume; split
    · exact h.handle _ _ hp
    · exact hp
  have hsn : ∀ s, P s → P (snoop t s) := by
    intro s hp; unfold snoop; split
    · exact h.snoopHead _ _ hp
    · split
      · exact h.snoopReport _ _ hp
      · exact hp
  unfold Machine.accept
  split
  · exact h.stripped _ _ hp
  · exact hcon _ (hsn _ hp)
  · unfold consumeAndForward
    dsimp only
    split
    · exact hcon _ (h.forward _ _ (hsn _ hp))
    split
    · exact hcon _ (h.forward _ _ (h.draw _ _ (hsn _ hp)))
    · exact h.forward _ _ (hcon _ (h.draw _ _ (hsn _ hp)))
  · exact h.forward _ _ (hsn _ hp)

theorem Kept.received (h : Kept P) (bytes : List Byte) (x y : Bool) (s : State) (hp : P s) : P (received bytes x y s) := by
  unfold Machine.received
  split
  · exact h.raise _ _ hp
  split
  · exact h.raise _ _ hp
  · exact h.accept _ _ hp

theorem onlyIf_kept {c : Bool} {s t : State} (hs : P s) (ht : c = true → P t) : P (onlyIf c s t) := by
  unfold onlyIf; split
  · exact ht (by assumption)
  · exact hs

/-- A property kept by every action and by the arbiter is kept by every command. -/
theorem Kept.exec (h : Kept P) (harb : ∀ s, P s → P (arbitrate s)) (c : Instr) (s t : State) (hp : P s)
    (he : exec c s = .next t) : P t := by
  have hpw : ∀ u : State, P u → powered s u = .next t → P t := by
    intro u hu hh
    rcases powered_next hh with ⟨_, e⟩ | ⟨_, e⟩ <;> subst e
    · exact hp
    · exact hu
  cases c <;> simp only [Machine.exec] at he
  case powerOnReset pins => cases he; exact h.powerOn _ _ hp
  case warmRestart =>
    cases he
    unfold warmAsserted
    split
    · exact hp
    split
    · exact h.warm _ _ hp
    · exact harb _ (h.warmRestart _ (h.warm _ _ hp))
  case startBit d g =>
    unfold execStartBit at he; split at he
    · cases he; exact h.reception _ _ (.inr rfl) hp
    · split at he <;> cases he
      · exact h.lineUp _ _ _ hp
      · exact h.startBit _ _ _ hp
  case completesReception =>
    unfold execCompletesReception at he; split at he
    · cases he; exact h.reception _ _ (.inl rfl) hp
    · cases he
      have hr := h.reception .ready s (.inl rfl) hp
      unfold completeReception
      dsimp only
      split
      · exact hp
      · exact hr
      · exact harb _ (h.received _ _ _ _ hr)
  case pwronAsserted => cases he; exact h.assertPwron _ hp
  case warmReleased => cases he; exact h.warm _ _ hp
  case supervisionExpiry p =>
    unfold execSupervisionExpiry at he; split at he
    · exact hpw _ (onlyIf_kept hp fun hd => harb _ (h.supervision _ _ hd hp)) he
    · cases he
  case settleTimerExpiry i =>
    unfold execSettleTimerExpiry at he; split at he
    · exact hpw _ (onlyIf_kept hp fun hd => harb _ (h.settle _ _ hd hp)) he
    · cases he
  case compareTimerExpiry i =>
    unfold execCompareTimerExpiry at he; split at he
    · exact hpw _ (onlyIf_kept hp fun hd => harb _ (h.compare _ _ hd hp)) he
    · cases he
  case lineDown => exact hpw _ (onlyIf_kept hp fun _ => harb _ (h.lineDown _ hp)) he
  case lineUp d g => exact hpw _ (onlyIf_kept hp fun _ => h.lineUp _ _ _ hp) he
  case ringInFree => exact hpw _ (onlyIf_kept hp fun _ => harb _ (h.ringFree _ hp)) he
  case recordTake => exact hpw _ (onlyIf_kept hp fun hd => h.takeRecord _ hd hp) he
  case recordApply =>
    refine hpw _ ?_ he
    unfold applyTaken; split
    · exact hp
    · rename_i r hr; exact harb _ (h.applyRecord _ _ hr hp)
  case skipOrSuspectRequestTaken =>
    refine hpw _ ?_ he
    unfold requestTaken; split
    · exact hp
    · rename_i r hr; exact harb _ (h.takeRequest _ _ hr hp)
  case startUpLimitExpiry => exact hpw _ (onlyIf_kept hp fun hd => harb _ (h.startLimit _ hd hp)) he
  case peerSilenceExpiry => exact hpw _ (onlyIf_kept hp fun _ => h.silence _ hp) he
  case cycleStep => exact hpw _ (onlyIf_kept hp fun _ => harb _ (h.cycle _ hp)) he
  case holdTimerExpiry => exact hpw _ (onlyIf_kept hp fun _ => harb _ (h.hold _ hp)) he
  case transmissionEnd =>
    refine hpw _ ?_ he
    unfold sendingEnded; split
    · exact h.transmissionEnd _ _ _ hp
    · exact hp
  case transmitterGapEnd => exact hpw _ (onlyIf_kept hp fun _ => harb _ (h.gapEnd _ hp)) he
  case watchRecordExpiry => exact hpw _ (onlyIf_kept hp fun _ => h.miss _ hp) he
  case loadIdleTimeout => exact hpw _ (onlyIf_kept hp fun _ => h.dropLoad _ hp) he
  case activationEnd =>
    refine hpw _ ?_ he
    unfold activationEnded; split
    · exact hp
    · rename_i a ha; exact harb _ (h.activationEnd _ _ ha hp)

theorem Kept.step (h : Kept P) (harb : ∀ s, P s → P (arbitrate s)) (s t : State) (hp : P s)
    (he : step s = .next t) : P t := by
  unfold Machine.step at he
  split at he
  · exact h.exec harb _ _ _ (h.pending _ _ hp) he
  · cases he
    unfold idle
    split
    · exact hp
    · split
      · exact h.tick _ hp
      · exact h.pending _ _ hp
      · exact h.pending _ { s with freeCount := s.freeCount + 1 } (h.draw _ _ hp)

/-! ## Actions that write records -/

/-- A property kept by every write of a point record, of a section record told to its neighbours, of a latch, and of the
requests of the Discriminator. -/
structure Writes (Q : State → Prop) : Prop where
  point : ∀ (p : PointIndex) (r : PointRecord) (s : State), Q s → Q (s.setPoint p r)
  commit : ∀ (i : SectionIndex) (r : SectionRecord) (s : State), Q s → Q (s.commitSect i r)
  raise : ∀ (l : Latch) (s : State), Q s → Q (s.raise l)
  service : ∀ s : State, s.tables.mode = .startUp → Q s → Q (enterService s)
  request : ∀ (x : Option FaultRequest) (s : State), Q s → Q { s with points := { s.points with request := x } }
  taken : ∀ s : State, Q s → Q s.taken

variable {Q : State → Prop}

theorem Writes.disturb (h : Writes Q) (c : SectionCause) (i : SectionIndex) (s : State) (hq : Q s) : Q (disturb c i s) := by
  unfold Machine.disturb; split
  · exact hq
  · exact h.raise _ _ (h.commit _ _ _ hq)

theorem Writes.atSide {o : Option SectionIndex} {act : SectionIndex → State → State} (ha : ∀ i s, Q s → Q (act i s)) (s : State)
    (hq : Q s) : Q (atSide o act s) := by
  unfold Machine.atSide; split
  · exact hq
  · exact ha _ _ hq

theorem Writes.faultNotice (h : Writes Q) (p : PointIndex) (s : State) (hq : Q s) : Q (faultNotice p s) :=
  Writes.atSide (h.disturb _) _ (Writes.atSide (h.disturb _) _ hq)

theorem Writes.enterFaulted (h : Writes Q) (p : PointIndex) (c : FaultCause) (s : State) (hq : Q s) : Q (enterFaulted p c s) :=
  h.raise _ _ (h.faultNotice _ _ (h.point _ _ _ hq))

theorem Writes.rederive (h : Writes Q) (i : SectionIndex) (s : State) (hq : Q s) : Q (rederive i s) := h.commit _ _ _ hq

theorem Writes.countAt (h : Writes Q) (c : CountChange) (i : SectionIndex) (s : State) (hq : Q s) : Q (countAt c i s) := by
  unfold Machine.countAt; split
  · exact h.disturb _ _ _ hq
  · exact h.commit _ _ _ hq

theorem Writes.judge (h : Writes Q) (p : PointIndex) (s : State) (hq : Q s) : Q (judge p s) := by
  unfold Machine.judge; split
  · exact hq
  · dsimp only; split
    · exact h.request _ _ (h.point _ _ _ hq)
    · exact h.point _ _ _ hq

theorem Writes.departure (h : Writes Q) (s : State) (hq : Q s) : Q (reportDeparture s) := by
  unfold reportDeparture; split
  · rename_i hm; exact h.service _ hm.1 hq
  · exact hq

theorem Writes.phaseStep (h : Writes Q) (r : EventRecord) (s : State) (hq : Q s) : Q (phaseStep r s) := by
  have hocc : ∀ p s, Q s → Q (announceOccupancy p s) := fun p s hq => Writes.atSide h.rederive _ (Writes.atSide h.rederive _ hq)
  unfold Machine.phaseStep
  dsimp only
  split
  · exact hq
  · exact h.point _ _ _ hq
  · exact hocc _ _ (h.point _ _ _ hq)
  · exact h.point _ _ _ hq
  · exact h.point _ _ _ hq
  · exact hocc _ _ (h.point _ _ _ hq)
  · exact h.judge _ _ (Writes.atSide (h.countAt _) _ (Writes.atSide (h.countAt _) _ (h.point _ _ _ hq)))
  · exact h.request _ _ hq

theorem Writes.applyRecord (h : Writes Q) (r : EventRecord) (s : State) (hq : Q s) : Q (applyRecord r s) := by
  unfold Machine.applyRecord
  split
  · unfold applyHealthy
    split
    · exact hq
    · exact h.enterFaulted _ _ _ hq
    · dsimp only; split
      · exact h.enterFaulted _ _ _ (h.point _ _ _ hq)
      · exact h.phaseStep _ _ (h.point _ _ _ hq)
  · unfold applyStarting
    split
    · exact h.departure _ (h.enterFaulted _ _ _ hq)
    split
    · exact h.departure _ (h.enterFaulted _ _ _ hq)
    · exact h.departure _ (h.point _ _ _ hq)
  · unfold applyFaulted; split
    · exact hq
    · exact h.point _ _ _ hq
  · exact hq
  · exact hq

theorem Writes.takeRequest (h : Writes Q) (q : FaultRequest) (s : State) (hq : Q s) : Q (takeRequest q s) := by
  unfold Machine.takeRequest
  dsimp only; split
  · exact h.enterFaulted _ _ _ (h.request _ _ hq)
  · exact h.request _ _ hq

theorem Writes.supervision (h : Writes Q) (p : PointIndex) (s : State) (hq : Q s) : Q (supervisionExpired p s) := by
  unfold supervisionExpired; split
  · exact h.enterFaulted _ _ _ hq
  · exact h.point _ _ _ hq

theorem Writes.timeouts (h : Writes Q) (l : List PointIndex) : ∀ s : State, Q s → Q (l.foldl timeoutPoint s) := by
  induction l with
  | nil => intro s hq; exact hq
  | cons p l ih =>
    intro s hq
    refine ih _ ?_
    unfold timeoutPoint; split
    · exact h.enterFaulted _ _ _ hq
    · exact hq

theorem timeouts_mode (l : List PointIndex) (s : State) : (l.foldl timeoutPoint s).tables = s.tables := by
  induction l generalizing s with
  | nil => rfl
  | cons p l ih => rw [List.foldl_cons, ih]; unfold timeoutPoint; split <;> simp

theorem Writes.startLimit (h : Writes Q) (s : State) (hm : s.tables.mode = .startUp) (hq : Q s) : Q (startLimitExpired s) := by
  unfold startLimitExpired
  exact h.service _ (by rw [timeouts_mode]; exact hm) (h.timeouts _ _ hq)

theorem Writes.compareExpired (h : Writes Q) (hc : ∀ i s, Q s → Q (s.setCompare i none)) (i : SectionIndex) (s : State) (hq : Q s) :
    Q (compareExpired i s) := h.disturb _ _ _ (hc _ _ hq)

theorem Writes.peerNotice (h : Writes Q) (i : SectionIndex) (s : State) (hq : Q s) : Q (peerNotice i s) := by
  unfold Machine.peerNotice; split
  · exact h.commit _ _ _ hq
  · exact hq

end Sys2Proof.Machine
end

