-- ==== Sys2Proof/Laws/Scans.lean ====
section
/-! SUPPORT. What the scans of the part find: the first field out of range (R152), the first item of a check in scan order
(R178); and the acceptance of a telegram that is not stripped (R134). -/

namespace Sys2Proof.Machine

/-! ## Scans -/

/-- No field is out of range. -/
theorem firstBadField_none (checks : List (Nat × Bool)) : firstBadField checks = none ↔ ∀ c ∈ checks, c.2 = true := by
  unfold firstBadField
  simp [List.find?_eq_none]

/-- The first field out of range, for checks whose numbers rise and decide `F`. -/
theorem firstBadField_some (checks : List (Nat × Bool)) (F : Nat → Prop) (hs : checks.Pairwise (fun a b => a.1 < b.1))
    (hF : ∀ c ∈ checks, c.2 = true ↔ F c.1) (hT : ∀ n, (∀ c ∈ checks, c.1 ≠ n) → F n) (n : Nat) :
    firstBadField checks = some n ↔ ¬F n ∧ ∀ m < n, F m := by
  have fwd : ∀ n, firstBadField checks = some n → ¬F n ∧ ∀ m < n, F m := by
    intro n h
    unfold firstBadField at h
    rw [Option.map_eq_some_iff] at h
    obtain ⟨c, hc, rfl⟩ := h
    rw [List.find?_eq_some_iff_append] at hc
    obtain ⟨hb, as, bs, rfl, hall⟩ := hc
    refine ⟨fun hf => ?_, fun m hm => ?_⟩
    · have := (hF c (by simp)).2 hf
      simp [this] at hb
    · by_contra hfm
      have : ¬∀ d ∈ as ++ c :: bs, d.1 ≠ m := fun h => hfm (hT m h)
      push Not at this
      obtain ⟨d, hd, rfl⟩ := this
      rcases List.mem_append.1 hd with hd' | hd'
      · have := hall d hd'
        simp at this
        exact hfm ((hF d hd).1 this)
      · rw [List.pairwise_append] at hs
        rcases List.mem_cons.1 hd' with rfl | hd'
        · omega
        · have := (List.pairwise_cons.1 hs.2.1).1 d hd'
          omega
  refine ⟨fwd n, fun ⟨h1, h2⟩ => ?_⟩
  cases hf : firstBadField checks with
  | none =>
    exfalso
    have hall := (firstBadField_none checks).1 hf
    have : ¬∀ d ∈ checks, d.1 ≠ n := fun h => h1 (hT n h)
    push Not at this
    obtain ⟨d, hd, rfl⟩ := this
    exact h1 ((hF d hd).1 (hall d hd))
  | some k =>
    obtain ⟨g1, g2⟩ := fwd k hf
    rcases lt_trichotomy k n with h | h | h
    · exact absurd (h2 k h) g1
    · rw [h]
    · exact absurd (g2 n h) h1

/-- The first element, in the order of the indices, that passes a test. -/
theorem find_of_sorted {n : Nat} (l : List (Fin n)) (hl : l.Pairwise (· < ·)) (P : Fin n → Bool) (i : Fin n) :
    l.find? P = some i ↔ i ∈ l ∧ P i = true ∧ ∀ j ∈ l, j < i → P j = false := by
  induction l with
  | nil => simp
  | cons a l ih =>
    rw [List.pairwise_cons] at hl
    rw [List.find?_cons]
    split
    · rename_i h
      simp only [Option.some.injEq, List.mem_cons]
      constructor
      · rintro rfl; refine ⟨.inl rfl, h, ?_⟩
        rintro j (rfl | hj) hlt
        · exact absurd hlt (lt_irrefl _)
        · exact absurd (hl.1 j hj) (not_lt.2 (le_of_lt hlt))
      · rintro ⟨rfl | hm, hp, hall⟩
        · rfl
        · have := hall a (.inl rfl) (hl.1 i hm); rw [h] at this; cases this
    · rename_i h
      rw [ih hl.2]
      simp only [List.mem_cons, forall_eq_or_imp]
      constructor
      · rintro ⟨h1, h2, h3⟩; exact ⟨.inr h1, h2, fun _ => by simpa using h, h3⟩
      · rintro ⟨rfl | h1, h2, _, h3⟩
        · exact absurd h2 (by simpa using h)
        · exact ⟨h1, h2, h3⟩

/-- The first result in the order of the indices. -/
theorem findSome_of_sorted {n : Nat} {β : Type} (l : List (Fin n)) (hl : l.Pairwise (· < ·)) (f : Fin n → Option β)
    (b : β) :
    l.findSome? f = some b ↔ ∃ i ∈ l, f i = some b ∧ ∀ j ∈ l, j < i → f j = none := by
  induction l with
  | nil => simp
  | cons a l ih =>
    rw [List.pairwise_cons] at hl
    rw [List.findSome?_cons]
    split
    · rename_i c h
      simp only [List.mem_cons, Option.some.injEq]
      constructor
      · rintro rfl; refine ⟨a, .inl rfl, h, ?_⟩
        rintro j (rfl | hj) hlt
        · exact absurd hlt (lt_irrefl _)
        · exact absurd (hl.1 j hj) (not_lt.2 (le_of_lt hlt))
      · rintro ⟨i, rfl | hm, hp, hall⟩
        · rw [h] at hp; exact Option.some.inj hp
        · have := hall a (.inl rfl) (hl.1 i hm); rw [h] at this; cases this
    · rename_i h
      rw [ih hl.2]
      simp only [List.mem_cons]
      constructor
      · rintro ⟨i, h1, h2, h3⟩
        exact ⟨i, .inr h1, h2, fun j hj hlt => by rcases hj with rfl | hj; exact h; exact h3 j hj hlt⟩
      · rintro ⟨i, rfl | h1, h2, h3⟩
        · rw [h] at h2; cases h2
        · exact ⟨i, h1, h2, fun j hj => h3 j (.inr hj)⟩

/-- No entry stands in the relation to an earlier one. -/
theorem firstAgainstEarlier_none {α : Type} (rel : α → α → Bool) (l : List α) : ∀ seen : List α,
    firstAgainstEarlier rel seen l = none ↔ (∀ x ∈ l, ∀ y ∈ seen, rel y x = false) ∧ l.Pairwise fun y x => rel y x = false := by
  induction l with
  | nil => intro seen; simp [firstAgainstEarlier]
  | cons x l ih =>
    intro seen
    unfold firstAgainstEarlier
    by_cases h : (seen.any fun y => rel y x) = true
    · rw [if_pos h]
      simp only [List.any_eq_true] at h
      obtain ⟨y, hy, hr⟩ := h
      simp only [reduceCtorEq, false_iff]
      rintro ⟨h1, _⟩
      rw [h1 x (by simp) y hy] at hr; cases hr
    · rw [if_neg h, ih]
      simp only [List.any_eq_true, not_exists, not_and, Bool.not_eq_true] at h
      simp only [List.pairwise_cons, List.forall_mem_cons]
      constructor
      · rintro ⟨h1, h2⟩
        exact ⟨⟨h, fun z hz y hy => (h1 z hz).2 y hy⟩, fun z hz => (h1 z hz).1, h2⟩
      · rintro ⟨⟨h1, h2⟩, h3, h4⟩
        exact ⟨fun z hz => ⟨h3 z hz, h2 z hz⟩, h4⟩

/-- The first entry that stands in the relation to an earlier one. -/
theorem firstAgainstEarlier_some {α : Type} (rel : α → α → Bool) (l : List α) : ∀ (seen : List α) (x : α),
    firstAgainstEarlier rel seen l = some x ↔
      ∃ earlier later, l = earlier ++ x :: later ∧ earlier.Pairwise (fun y z => rel y z = false)
        ∧ (∀ z ∈ earlier, ∀ y ∈ seen, rel y z = false)
        ∧ ((∃ y ∈ seen, rel y x = true) ∨ ∃ y ∈ earlier, rel y x = true) := by
  induction l with
  | nil => intro seen x; simp [firstAgainstEarlier]
  | cons a l ih =>
    intro seen x
    unfold firstAgainstEarlier
    split
    · rename_i h
      rw [List.any_eq_true] at h
      simp only [Option.some.injEq]
      constructor
      · rintro rfl; exact ⟨[], l, rfl, List.Pairwise.nil, by simp, .inl h⟩
      · rintro ⟨earlier, later, e, h1, h2, h3⟩
        cases earlier with
        | nil => simp at e; exact e.1
        | cons b earlier =>
          simp at e
          obtain ⟨y, hy, hr⟩ := h
          have := h2 b (by simp) y hy
          rw [← e.1, hr] at this; cases this
    · rename_i h
      simp only [List.any_eq_true, not_exists, not_and, Bool.not_eq_true] at h
      rw [ih]
      constructor
      · rintro ⟨earlier, later, e, h1, h2, h3⟩
        refine ⟨a :: earlier, later, by rw [e]; rfl, ?_, ?_, ?_⟩
        · rw [List.pairwise_cons]; exact ⟨fun z hz => h2 z hz a (by simp), h1⟩
        · intro z hz y hy
          rcases List.mem_cons.1 hz with rfl | hz
          · exact h y hy
          · exact h2 z hz y (by simp [hy])
        · rcases h3 with ⟨y, hy, hr⟩ | ⟨y, hy, hr⟩
          · rcases List.mem_cons.1 hy with rfl | hy
            · exact .inr ⟨_, by simp, hr⟩
            · exact .inl ⟨y, hy, hr⟩
          · exact .inr ⟨y, by simp [hy], hr⟩
      · rintro ⟨earlier, later, e, h1, h2, h3⟩
        cases earlier with
        | nil =>
          simp at e; obtain ⟨rfl, rfl⟩ := e
          rcases h3 with ⟨y, hy, hr⟩ | ⟨y, hy, _⟩
          · rw [h y hy] at hr; cases hr
          · simp at hy
        | cons b earlier =>
          simp at e; obtain ⟨rfl, rfl⟩ := e
          rw [List.pairwise_cons] at h1
          refine ⟨earlier, later, rfl, h1.2, ?_, ?_⟩
          · intro z hz y hy
            rcases List.mem_cons.1 hy with rfl | hy
            · exact h1.1 z hz
            · exact h2 z (by simp [hz]) y hy
          · rcases h3 with ⟨y, hy, hr⟩ | ⟨y, hy, hr⟩
            · exact .inl ⟨y, by simp [hy], hr⟩
            · rcases List.mem_cons.1 hy with rfl | hy
              · exact .inl ⟨_, by simp, hr⟩
              · exact .inr ⟨y, hy, hr⟩

/-- The configured sections ascend. -/
theorem configuredSections_sorted (s : State) : s.configuredSections.Pairwise (· < ·) := (List.pairwise_lt_finRange 32).filter _

/-- The configured points ascend. -/
theorem configuredPoints_sorted (s : State) : s.configuredPoints.Pairwise (· < ·) := (List.pairwise_lt_finRange 48).filter _

/-! ## Acceptance -/

/-- Where Table 7-2 forwards, a telegram that is not stripped is offered to the forward buffer. -/
theorem placed_eq {t : Telegram} {s : State} :
    s.placed t = if s.forwards t then forwardTelegram { t with hopBudget := t.hopBudget - 1 } s else s := by
  unfold State.placed forwardTelegram
  split
  · split <;> rfl
  · rfl

/-- Acceptance of a telegram that is not stripped: tests 2 to 4 of Table 7-2. -/
theorem accept_not_stripped {t : Telegram} {s : State} (hs : s.hasOwnAddress = false ∨ t.source ≠ s.ring.ownAddress) :
    accept t s =
      if s.hasOwnAddress = true ∧ t.destination = s.ring.ownAddress then consume t (snoop t s)
      else if s.pairAddress ≠ 0 ∧ t.destination = s.pairAddress then consumeAndForward t (snoop t s)
      else forwardTelegram t (snoop t s) := by
  unfold accept State.fate
  rw [if_neg (by rintro ⟨a, b⟩; rcases hs with h | h <;> simp_all)]
  by_cases h1 : s.hasOwnAddress = true ∧ t.destination = s.ring.ownAddress
  · rw [if_pos h1, if_pos h1]
  · rw [if_neg h1, if_neg h1]
    by_cases h2 : s.pairAddress ≠ 0 ∧ t.destination = s.pairAddress
    · rw [if_pos h2, if_pos h2]
    · rw [if_neg h2, if_neg h2]

/-- A consumed telegram that is no request is discarded. -/
theorem consume_no_request {t : Telegram} (h : t.kind ≠ 0x63) (s : State) : consume t s = s := by
  unfold consume; rw [if_neg (by exact h)]

end Sys2Proof.Machine
end

