-- ==== Sys2Proof/Tests/Slice0.lean ====
section
/-! SUPPORT. Tests with results from the manual's own examples, the smoke test of WellFormed, and one theorem for each
statement of Certificates/Slice0/Obligations.lean that has hypotheses, with a state and operands that meet them, clause by
clause and at the ends of their ranges. -/

namespace Sys2Proof.Tests

open Sys2Proof Sys2Proof.Machine

/-! ## States -/

/-- A head of spacing 140 mm, ceiling 120.0 km/h, window 200 ms, recovery count 3 and suspect limit 3 (2.8). -/
def head (address : Byte) : PointEntry where
  headAddress := address
  spacing := 140
  ceiling := 1200
  window := 20
  recoveryCount := 3
  suspectLimit := 3

/-- A parameter record of channel A: partner 13, pair address 14, interlocking 3 and maintenance node 7. -/
def record : ParamRecord where
  peerAddress := 13
  pairAddress := 14
  interlockingAddress := 3
  maintenanceAddress := 7
  reportTrigger := 2
  reportHold := 5
  cyclePeriod := 50
  silenceLimit := 20
  compareWindow := 30
  roundTripLimit := 100
  loopMissLimit := 3
  hopBudget := 16

/-- A section with a settle time of 2000 ms (3.11). -/
def area (boundaries : List Boundary) (permission : Permission) : SectionEntry where
  boundaries := boundaries
  settleTime := 20
  permission := permission

/-- Two points in a row: section 0, point 0, section 1, point 1, section 2, from side A to side B. -/
def areas : List SectionEntry :=
  [area [{ point := 0, inside := .a }] .sweepOnly,
    area [{ point := 0, inside := .b }, { point := 1, inside := .a }] .sweepOrDirect,
    area [{ point := 1, inside := .b }] .sweepOnly]

/-- A point HEALTHY in phase IDLE, with sequence reference 40. -/
def healthy : PointRecord :=
  { PointRecord.initial .healthy with seqRef := some 40, supervision := some { start := 0, length := 200 } }

/-- A section CLEAR with serial 40 (3.11). -/
def clear : SectionRecord :=
  { state := .clear, count := 0, serial := 40, cause := .none, settle := none }

/-- Channel A, own address 12, in SERVICE with both points HEALTHY, all three sections CLEAR, and nothing under way. -/
def service : State :=
  { State.reset with
    points :=
      { State.reset.points with
        records := ((Vector.replicate 48 (PointRecord.initial .unused)).set 0 healthy).set 1 healthy }
    sections :=
      { records := (((Vector.replicate 32 SectionRecord.atPowerOn).set 0 clear).set 1 clear).set 2 clear
        sideMap :=
          ((Vector.replicate 48 none).set 0 (some { sideA := some 0, sideB := some 1 })).set 1
            (some { sideA := some 1, sideB := some 2 }) }
    tables :=
      { State.reset.tables with
        points := [head 40, head 41]
        sections := areas
        params := some record
        activated := true
        version := 412
        mode := .service } }

/-- The record of a point replaced. -/
def withPoint (p : PointIndex) (r : PointRecord) (s : State) : State := s.setPoint p r

/-- A record in processing. -/
def processing (r : EventRecord) (s : State) : State := { s with points := { s.points with processing := some r } }

/-- A record of point 0 with health 0. -/
def event (seq : Byte) (s1 s2 : Bool) (tick : HeadTick) (arrival : Time) : EventRecord where
  point := 0
  seq := seq
  s1 := s1
  s2 := s2
  tick := tick
  health := { s1Fault := false, s2Fault := false, internalFault := false }
  arrival := arrival

/-- A telegram with its own CRC and hop budget 20. -/
def telegram (kind destination source seq : Byte) (payload : List Byte) : Telegram where
  kind := kind
  destination := destination
  source := source
  seq := seq
  hopBudget := 20
  payload := payload
  crc := crcOf ([kind, destination, source, seq, byte payload.length] ++ payload)

/-- A telegram whole in reception. -/
def receiving (t : Telegram) (s : State) : State :=
  { s with ring := { s.ring with reception := .collecting t.toBytes false false } }

/-- A request to channel A. -/
def request (source : Byte) (payload : List Byte) : Telegram := telegram 0x63 12 source 1 payload

/-- The state after a command. -/
def after (c : Instr) (s : State) : State :=
  match exec c s with
  | .next t => t
  | .fault _ => s
  | .refused _ => s

/-! ## Well-formedness -/

theorem test_wellFormed_point_too_high : (Instr.supervisionExpiry 48).wellFormed = false := by decide

theorem test_wellFormed_settle_section_too_high : (Instr.settleTimerExpiry 32).wellFormed = false := by decide

theorem test_wellFormed_compare_section_too_high : (Instr.compareTimerExpiry 32).wellFormed = false := by decide

theorem test_wellFormed_last_point_and_section :
    (Instr.supervisionExpiry 47).wellFormed = true ∧ (Instr.settleTimerExpiry 31).wellFormed = true
      ∧ (Instr.compareTimerExpiry 31).wellFormed = true := by decide

/-- No row of the table has bits. -/
theorem test_no_word_spells_a_command : decodeTableWord 32 0x1234 = none := by decide

/-! ## Worked examples of the manual -/

/-- The CRC of R132 (polynomial 1021h, initial value FFFFh, no inversion) over the ASCII digits 1 to 9: its published check
value. -/
theorem test_crc_check_value :
    crcOf [0x31, 0x32, 0x33, 0x34, 0x35, 0x36, 0x37, 0x38, 0x39] = 0x29B1 := by decide +kernel

/-- Table 2-8: the speed across the wrap of head time. -/
theorem test_speed_across_tick_wrap :
    measureSpeed { tick := 65500, arrival := 1000200 } 144 1000203 140 = 1400 := by decide +kernel

/-- Table 2-9: the creep and the speed after the lead was retaken. -/
theorem test_speed_of_shunt :
    measureSpeed { tick := 5000, arrival := 3000000 } 8960 3001400 140 = 0
      ∧ measureSpeed { tick := 20000, arrival := 3003000 } 24000 3003080 140 = 63 := by decide +kernel

/-- Table 8-18: the report formed. -/
theorem test_report_bytes :
    let r : Report :=
      { version := 412
        entries :=
          [{ index := 4, state := .occupied, count := 2, serial := 22, cause := .none },
            { index := 9, state := .disturbed, count := 3, serial := 57, cause := .pointFault }] }
    r.toBytes = [1, 156, 2, 4, 4, 0, 2, 22, 0, 9, 1, 0, 3, 57, 3] := by decide +kernel

/-- Table 1-10: sequence 1 after reference 254 is a gap, and both sections of the point are disturbed. -/
theorem test_gap_disturbs_both_sections :
    let t := after .recordApply
      (processing (event 1 false false 0 0) (withPoint 0 { healthy with seqRef := some 254 } service))
    (t.point 0).status = .faulted ∧ (t.point 0).cause = .gap ∧ (t.point 0).seqRef = none
      ∧ (t.sect 0).state = .disturbed ∧ (t.sect 0).cause = .pointFault ∧ (t.sect 1).serial = 41
      ∧ (t.sect 2).state = .clear := by decide +kernel

/-- Table 3-9: an UP pass over point 0 takes an axle from section 0 into section 1. -/
theorem test_up_pass_counts_on_both_sides :
    let up3 : PointRecord :=
      { healthy with phase := .up3, lead := some { tick := 0, arrival := 0 }, lastSpeed := 700 }
    let busy : SectionRecord := { clear with state := .occupied, count := 2 }
    let s := (withPoint 0 up3 service).setSect 0 busy |>.setSect 1 { clear with state := .occupied, serial := 41 }
    let t := after .recordApply (processing (event 41 false false 0 0) s)
    (t.sect 0).count = 1 ∧ (t.sect 0).serial = 40 ∧ (t.sect 1).count = 1 ∧ (t.sect 1).serial = 41
      ∧ (t.point 0).lastDirection = some .up ∧ (t.point 0).phase = .idle := by decide +kernel

/-- Table 3-9: with the partner's entry in hand the section passes through AWAIT_PEER, serial 42 to 44. -/
theorem test_settling_section_becomes_clear :
    let settling : SectionRecord :=
      { clear with state := .settling, serial := 42, settle := some { start := 0, length := 2000 } }
    let entry : PeerEntry := { state := .awaitPeer, count := 0, serial := 9, arrival := 1970 }
    let s := (service.setSect 1 settling).setPeerEntry 1 (some entry)
    let t := after (.settleTimerExpiry 1) { s with now := 2000, peer := { s.peer with state := .present } }
    (t.sect 1).state = .clear ∧ (t.sect 1).serial = 44 ∧ (t.sect 1).settle = none
      ∧ t.reports.queue = [1] := by decide +kernel

/-- 8.8: READ_SECTION of index 40 is answered BAD_INDEX with the index. -/
theorem test_read_section_of_unused_index :
    (after .completesReception (receiving (request 7 [0x02, 90, 40]) service)).requests.answers =
      [.formed
        { destination := 7, code := 0x02, tag := 90, outcome := .badIndex, data := [40], restart := false }] := by
  decide +kernel

/-- Table 7-5: a telegram to be forwarded finds the buffer full. -/
theorem test_forward_overrun :
    let h := telegram 0x21 255 200 90 [0, 0, 0, 0]
    let s : State := { service with ring := { service.ring with forward := [h, h], tx := .gap } }
    let t := after .completesReception (receiving h s)
    t.ring.forward = [h, h] ∧ t.latch .forwardOverrun = true := by decide +kernel

/-- R184: ALARM is asserted by POWER_ON, and released when PWRON is asserted. -/
theorem test_alarm_at_power :
    (after (.powerOnReset 12) service).alarm = true
      ∧ (after .pwronAsserted (after (.powerOnReset 12) service)).alarm = false := by decide +kernel

/-! ## Hypotheses that are met: the step, power, the ring -/

/-- The CRC leaves the hop budget out (R132). -/
theorem telegram_crc (k d c q h : Byte) (p : List Byte) :
    ({ telegram k d c q p with hopBudget := h } : Telegram).crc =
      ({ telegram k d c q p with hopBudget := h } : Telegram).properCrc := rfl

/-- Its own CRC. -/
theorem telegram_proper (k d c q : Byte) (p : List Byte) : (telegram k d c q p).crc = (telegram k d c q p).properCrc := rfl

/-- A telegram of this form is received by any part whose PWRON is released. -/
theorem telegram_receives (k d c q : Byte) (p : List Byte) (s : State) (hp : p.length ≤ 28) (hs : s.pwron = false) :
    Receives (telegram k d c q p) (receiving (telegram k d c q p) s) :=
  ⟨hs, rfl, hp, rfl, show 2 ≤ (20 : Byte).toNat by decide⟩

/-- A request of a station other than channel A itself is consumed. -/
theorem request_consumes (c : Byte) (p : List Byte) (s : State) (hp : p.length ≤ 28) (hs : s.pwron = false)
    (ho : s.ring.ownAddress = 12) (hc : c ≠ 12) : Consumes c p (request c p) (receiving (request c p) s) := by
  have ho' : (receiving (request c p) s).ring.ownAddress = 12 := ho
  exact ⟨telegram_receives 0x63 12 c 1 p s hp hs, rfl, rfl, rfl, by rw [ho']; decide, .inl ho'.symm, .inl ho'.symm,
    by rw [ho']; exact hc⟩

/-- A request of the maintenance node is taken while the answer queue has room. -/
theorem request_takes (p : List Byte) (s : State) (hp : p.length ≤ 28) (hs : s.pwron = false)
    (ho : s.ring.ownAddress = 12) (ha : s.authorised { source := 7, payload := p } = true)
    (hr : s.requests.answers.length < 4) : Takes 7 p (request 7 p) (receiving (request 7 p) s) :=
  ⟨request_consumes 7 p s hp hs ho (by decide), ha, hr⟩

/-- A request of the maintenance node to the pair address 14 is taken in SERVICE, and executed with its copy in the forward
buffer. -/
theorem test_pair_request_taken_and_forwarded :
    let t := telegram 0x63 14 7 1 [0x01, 9]
    Takes 7 [0x01, 9] t (receiving t service)
      ∧ ((receiving t service).handed t).ring.forward = [{ t with hopBudget := 19 }] :=
  ⟨⟨⟨telegram_receives 0x63 14 7 1 [0x01, 9] service (by decide) rfl, rfl, rfl, rfl, by decide, by decide, by decide,
    by decide⟩, by decide, by decide⟩, by decide +kernel⟩

/-- R150: 7 is no cause code (Table 8-4), so the report that carries it is malformed. -/
theorem test_report_with_unknown_cause_is_malformed :
    reportOf [1, 156, 1, 4, 4, 0, 2, 22, 0] ≠ none ∧ reportOf [1, 156, 1, 4, 4, 0, 2, 22, 7] = none := by
  decide +kernel

theorem witness_CommandsCompleteWithinThePart :
    (Instr.supervisionExpiry 47).wellFormed = true ∧ (Instr.settleTimerExpiry 31).wellFormed = true
      ∧ 48 ≤ 48 ∧ 32 ≤ 32 := by decide

theorem witness_CommandsKeepQueueAndTime :
    ∃ t, exec .warmReleased service = .next t ∧ ∀ pins, Instr.warmReleased ≠ .powerOnReset pins :=
  ⟨_, rfl, by simp⟩

theorem witness_IdleStepTicksOrRaises :
    let late := { service with now := 200 }
    service.pending = [] ∧ service.pwron = false ∧ service.dueCommands = []
      ∧ late.pending = [] ∧ late.pwron = false ∧ late.dueCommands ≠ []
      ∧ (assertPwron service).pending = [] ∧ (assertPwron service).pwron = true := by decide +kernel

theorem witness_AssertedPwronStopsThePart :
    (assertPwron service).pwron = true ∧ (∀ pins, Instr.lineDown ≠ .powerOnReset pins)
      ∧ Instr.lineDown ≠ .pwronAsserted ∧ ∃ t, exec .lineDown (assertPwron service) = .next t :=
  ⟨rfl, by simp, by decide, _, rfl⟩

theorem witness_WarmRestartSetsEveryItem :
    let held := { service with warm := true }
    (service.pwron = false ∧ service.warm = false) ∧ held.warm = true
      ∧ (assertPwron service).warm = false ∧ (assertPwron service).pwron = true := by decide

/-- The reception of RING IN replaced. -/
def inReception (r : Reception) (s : State) : State := { s with ring := { s.ring with reception := r } }

/-- The line in LINE_DOWN. -/
def broken (s : State) : State := { s with ring := { s.ring with condition := .lineDown } }

/-- The 36th character is the last that is stored, so 35 and 36 bytes are the two sides of the boundary. -/
theorem witness_CharacterReceived :
    let some35 := inReception (.collecting (List.replicate 35 0) false false) service
    let some36 := inReception (.collecting (List.replicate 36 0) false false) service
    service.pwron = false ∧ service.ring.condition = .lineUp ∧ service.ring.reception = .ready
      ∧ (inReception .skipping service).ring.reception = .skipping
      ∧ some35.ring.reception = .collecting (List.replicate 35 0) false false ∧ some35.ring.condition = .lineUp
      ∧ some36.ring.reception = .collecting (List.replicate 36 0) false false ∧ some36.ring.condition = .lineUp
      ∧ (broken service).pwron = false ∧ (broken service).ring.condition = .lineDown := by decide

theorem witness_LineMonitorFollowsRingIn :
    let skipping := inReception .skipping service
    service.pwron = false ∧ service.ring.condition = .lineUp ∧ service.ring.reception = .ready
      ∧ skipping.ring.condition = .lineUp ∧ skipping.ring.reception = .skipping
      ∧ (inReception (.collecting [0] false false) service).ring.reception = .collecting [0] false false
      ∧ (broken service).pwron = false ∧ (broken service).ring.condition = .lineDown := by decide

theorem witness_TelegramArrivesCharacterByCharacter :
    service.pwron = false ∧ service.ring.condition = .lineUp ∧ service.ring.reception = .ready
      ∧ (1 ≤ [(0 : Byte)].length ∧ [(0 : Byte)].length ≤ 36)
      ∧ 1 ≤ (List.replicate 36 (0 : Byte)).length ∧ (List.replicate 36 (0 : Byte)).length ≤ 36 := by decide

/-- A report with the entry of section 31 at count 1023, `k` times. -/
def fullReport (k : Nat) : Report where
  version := 412
  entries := List.replicate k { index := 31, state := .occupied, count := 1023, serial := 255, cause := .none }

theorem witness_TelegramRoundTrip :
    let t := telegram 0x42 3 12 40 (List.replicate 28 0)
    t.payload.length ≤ 28 ∧ t.crc = t.properCrc
      ∧ CarriesReport (fullReport 1).toBytes (fullReport 1) ∧ CarriesReport (fullReport 4).toBytes (fullReport 4) :=
  ⟨by decide, telegram_proper 0x42 3 12 40 (List.replicate 28 0), ⟨rfl, by decide, by decide⟩, ⟨rfl, by decide, by decide⟩⟩

/-- Each way to be bad has its telegram: a bad stop bit, 7 bytes, a 37th byte, Length 29, one byte too many and a CRC that is
wrong; and each expired hop budget its own. -/
theorem witness_BadAndExpiredTelegramsDropped :
    let at' := fun (bytes : List Byte) (x y : Bool) => inReception (.collecting bytes x y) service
    let longer : List Byte := [0x21, 3, 40, 1, 20, 29] ++ List.replicate 31 0
    let extra : List Byte := [0x21, 3, 40, 1, 20, 0, 0, 0, 0]
    let wrong : List Byte := [0x21, 3, 40, 1, 20, 0, 0, 0]
    let old := fun h : Byte => { telegram 0x21 3 40 1 [] with hopBudget := h }
    (at' [] true false).ring.reception = .collecting [] true false
      ∧ (List.replicate 7 (0 : Byte)).length < 8
      ∧ (at' [] false true).ring.reception = .collecting [] false true
      ∧ (longer[5]? = some 29 ∧ 28 < (29 : Byte).toNat)
      ∧ (extra[5]? = some 0 ∧ extra.length ≠ 8 + (0 : Byte).toNat)
      ∧ (8 ≤ wrong.length
        ∧ wrong.drop (wrong.length - 2) ≠
          twoBytes (crcOf (wrong.take 4 ++ (wrong.drop 5).take (wrong.length - 7))).toNat)
      ∧ (∀ h : Byte, h = 0 ∨ h = 1 → (receiving (old h) service).ring.reception = .collecting (old h).toBytes false false
        ∧ (old h).payload.length ≤ 28 ∧ (old h).crc = (old h).properCrc ∧ ((old h).hopBudget = 0 ∨ (old h).hopBudget = 1))
      ∧ service.ring.reception = .ready ∧ (inReception .skipping service).ring.reception = .skipping :=
  ⟨rfl, by decide, rfl, by decide, by decide, by decide +kernel, fun h hh => ⟨rfl, Nat.zero_le _, telegram_crc 0x21 3 40 1 h [], hh⟩, rfl, rfl⟩

/-- Channel A waits for the return of its telegram with sequence 17. -/
def watching : State := { service with ring := { service.ring with watch := [{ seq := 17, sendTime := 0 }] } }

theorem witness_OwnTelegramStripped :
    let back := fun q : Byte => telegram 0x64 7 12 q []
    (∀ q, Receives (back q) (receiving (back q) watching) ∧ (back q).source = watching.ring.ownAddress)
      ∧ watching.ring.ownAddress ≠ 0 ∧ watching.ring.ownAddress ≠ 255
      ∧ (∃ w ∈ watching.ring.watch, w.seq = (back 17).seq) ∧ ∀ w ∈ watching.ring.watch, w.seq ≠ (back 18).seq :=
  ⟨fun q => ⟨telegram_receives 0x64 7 12 q [] watching (by decide) rfl, rfl⟩, by decide, by decide, by decide, by decide⟩

/-- The forward buffer holds two telegrams. -/
def crowded : State :=
  { service with ring := { service.ring with forward := [telegram 0x21 255 40 1 [], telegram 0x21 255 41 1 []] } }

/-- No report has a payload of one byte. -/
theorem no_report_of_one_byte (b : Byte) (r : Report) : ¬CarriesReport [b] r := by
  rintro ⟨h, -, -⟩
  have := congrArg List.length h
  simp [Report.toBytes, twoBytes] at this

/-- No HEAD_STATE has an empty payload. -/
theorem no_head_of_no_byte : ¬WellFormedHead [] := by
  rintro ⟨_, _, _, _, h, _⟩
  cases h

/-- No head of the area has the address 200. -/
theorem service_head_known (p : PointIndex) (e : PointEntry) (h : service.pointEntry p = some e) :
    e.headAddress ≠ 200 := by
  have key : ∀ q : PointIndex, ((service.pointEntry q).all fun f => decide (f.headAddress ≠ 200)) = true := by
    decide +kernel
  have := key p
  rw [h] at this
  exact of_decide_eq_true this

/-- Each way not to be snooped: another kind, CONFIG, a HEAD_STATE that is malformed or of an unknown head, a SECTION_REPORT
that is malformed or not from the partner; and each fate, with room in the forward buffer and without. -/
theorem witness_OtherTelegramsForwardedOrDiscarded :
    let got := fun (k d c : Byte) (p : List Byte) (s : State) => receiving (telegram k d c 1 p) s
    let resting : State := { service with tables := { service.tables with mode := .config } }
    (∀ k d c, ∀ s ∈ [service, crowded, resting], Receives (telegram k d c 1 []) (got k d c [] s))
      ∧ (∀ b, Receives (telegram 0x42 3 13 1 [b]) (got 0x42 3 13 [b] service))
      ∧ (∀ d c, Unsnooped (telegram 0x64 d c 1 []) service ∧ Unsnooped (telegram 0x63 d c 1 []) crowded)
      ∧ Unsnooped (telegram 0x21 255 40 1 []) resting ∧ Unsnooped (telegram 0x21 255 40 1 []) service
      ∧ Unsnooped (telegram 0x21 255 200 1 [0, 0, 0, 0]) service
      ∧ Unsnooped (telegram 0x42 3 13 1 [0]) service ∧ Unsnooped (telegram 0x42 3 9 1 []) service
      ∧ (7 : Byte) ≠ service.ring.ownAddress
      ∧ (service.forwards (telegram 0x63 9 7 1 []) ∧ (9 : Byte) ≠ service.pairAddress)
      ∧ ¬service.forwards (telegram 0x63 12 7 1 [])
      ∧ (service.forwards (telegram 0x63 14 7 1 []) ∧ service.pairAddress ≠ 0 ∧ (14 : Byte) = service.pairAddress)
      ∧ service.ring.forward.length < 2
      ∧ (crowded.forwards (telegram 0x63 14 7 1 []) ∧ (14 : Byte) = crowded.pairAddress)
      ∧ 2 ≤ crowded.ring.forward.length := by
  refine ⟨fun k d c s hs => telegram_receives k d c 1 [] s (by decide) ?_,
    fun b => telegram_receives 0x42 3 13 1 [b] service (by simp) rfl,
    fun d c => ⟨.inl ⟨(by decide : (0x64 : Byte) ≠ kindHeadState), (by decide : (0x64 : Byte) ≠ kindSectionReport)⟩,
      .inl ⟨(by decide : (0x63 : Byte) ≠ kindHeadState), (by decide : (0x63 : Byte) ≠ kindSectionReport)⟩⟩, .inr (.inl rfl),
    .inr (.inr (.inl ⟨rfl, .inl no_head_of_no_byte⟩)), .inr (.inr (.inl ⟨rfl, .inr service_head_known⟩)),
    .inr (.inr (.inr ⟨rfl, .inl (no_report_of_one_byte 0)⟩)), .inr (.inr (.inr ⟨rfl, .inr (.inr (.inl (by decide)))⟩)),
    by decide, by decide, by decide, by decide, by decide, by decide, by decide⟩
  revert s; decide

/-- RING IN is FREE. -/
def quiet (s : State) : State := { s with ring := { s.ring with activity := .free } }

/-- An answer to the maintenance node. -/
def sample : Answer where
  destination := 7
  code := 0x01
  tag := 9
  outcome := .done
  data := []
  restart := false

/-- The answer queue replaced. -/
def answering (l : List AnswerPlace) (s : State) : State := { s with requests := { s.requests with answers := l } }

/-- The report queue replaced. -/
def reporting (l : List SectionIndex) (s : State) : State := { s with reports := { s.reports with queue := l } }

theorem witness_ArbiterOrder :
    let gap := { service with ring := { service.ring with tx := .gap } }
    let none0 := { service with ring := { service.ring with ownAddress := 0 } }
    let none255 := { service with ring := { service.ring with ownAddress := 255 } }
    gap.ring.tx ≠ .idle ∧ service.ring.tx = .idle
      ∧ crowded.ring.forward = telegram 0x21 255 40 1 [] :: [telegram 0x21 255 41 1 []]
      ∧ service.ring.forward = [] ∧ none0.ring.ownAddress = 0 ∧ none255.ring.ownAddress = 255
      ∧ service.ring.condition = .lineUp ∧ service.ring.activity = .receiving
      ∧ service.ring.ownAddress ≠ 0 ∧ service.ring.ownAddress ≠ 255
      ∧ (broken service).ring.condition = .lineDown ∧ (quiet service).ring.activity = .free
      ∧ (answering [.reserved, .formed sample] (quiet service)).requests.answers = [.reserved] ++ .formed sample :: []
      ∧ (∀ x ∈ [AnswerPlace.reserved], x = .reserved)
      ∧ (∀ a, .formed a ∉ (quiet service).requests.answers) ∧ (quiet service).eligible = false :=
  ⟨by decide, by decide, rfl, rfl, rfl, rfl, rfl, rfl, by decide, by decide, rfl, rfl, rfl, by decide, by simp [quiet, service, State.reset],
    by decide +kernel⟩

theorem witness_ReportFormed :
    let s := reporting [4, 9] (quiet service)
    let five := { reporting [0] (quiet service) with reports := { (reporting [0] service).reports with hold := .expired } }
    s.tables.params = some record ∧ s.eligible = true ∧ s.ring.tx = .idle ∧ s.ring.forward = []
      ∧ s.ring.ownAddress ≠ 0 ∧ s.ring.ownAddress ≠ 255 ∧ s.ring.activity = .free
      ∧ (∀ a, .formed a ∉ s.requests.answers) ∧ five.eligible = true :=
  ⟨rfl, by decide +kernel, rfl, rfl, by decide, by decide, rfl, by simp [reporting, quiet, service, State.reset],
    by decide +kernel⟩

/-- A telegram in SENDING. -/
def sending (c : TxClass) (n : Nat) : State :=
  { service with
    ring :=
      { service.ring with
        tx := .sending (telegram 0x42 3 12 40 []) c
        watch := List.replicate n { seq := 17, sendTime := 0 } } }

theorem witness_TransmissionEnds :
    let gap := { service with ring := { service.ring with tx := .gap } }
    (∀ c n, (sending c n).pwron = false ∧ (sending c n).ring.tx = .sending (telegram 0x42 3 12 40 []) c)
      ∧ (sending .report 7).ring.watch.length < 8 ∧ 8 ≤ (sending .report 8).ring.watch.length
      ∧ (sending (.answer false) 7).ring.watch.length < 8 ∧ 8 ≤ (sending (.answer false) 8).ring.watch.length
      ∧ gap.pwron = false ∧ gap.ring.tx = .gap :=
  ⟨fun _ _ => ⟨rfl, rfl⟩, by decide, by decide, by decide, by decide, rfl, rfl⟩

theorem witness_WatchRecordExpires :
    let at' := fun n : Time => { watching with now := n }
    let bare := fun n : Time => { at' n with tables := { watching.tables with params := none } }
    (∀ n, (at' n).pwron = false ∧ (at' n).ring.watch = { seq := 17, sendTime := 0 } :: []
        ∧ (bare n).pwron = false ∧ (bare n).ring.watch = { seq := 17, sendTime := 0 } :: [])
      ∧ (at' 101).tables.params = some record ∧ record.roundTripLimit < ((at' 101).now - 0).toNat
      ∧ ((at' 100).now - 0).toNat ≤ record.roundTripLimit
      ∧ (bare 256).tables.params = none ∧ 255 < ((bare 256).now - 0).toNat ∧ ((bare 255).now - 0).toNat ≤ 255 :=
  ⟨fun _ => ⟨rfl, rfl, rfl, rfl⟩, rfl, by decide, by decide, rfl, by decide, by decide⟩

/-! ## Hypotheses that are met: points and their records -/

/-- The point event queue replaced. -/
def queueing (l : List EventRecord) (s : State) : State := { s with points := { s.points with queue := l } }

/-- A request of the Discriminator. -/
def asking (c : FaultCause) (s : State) : State :=
  { s with points := { s.points with request := some { point := 0, cause := c } } }

/-- No two points of the area share a head address. -/
theorem service_head_unique (q : PointIndex) (f : PointEntry) (h : service.pointEntry q = some f)
    (ha : f.headAddress = 40) : q = 0 := by
  have key : ∀ q : PointIndex, ((service.pointEntry q).all fun f => decide (f.headAddress = 40 → q = 0)) = true := by
    decide +kernel
  have := key q
  rw [h] at this
  exact of_decide_eq_true this ha

/-- A full queue has 64 records, and one below it 63; the telegram is for all stations or for channel A itself, and the forward
buffer has room or is full. -/
theorem witness_HeadTelegramSnooped :
    let t := fun d : Byte => telegram 0x21 d 40 41 [3, 255, 255, 7]
    let s := fun n : Nat => queueing (List.replicate n (event 1 false false 0 0)) service
    (∀ d, (∀ n, Receives (t d) (receiving (t d) (s n))) ∧ Receives (t d) (receiving (t d) crowded))
      ∧ (∀ d, (t d).kind = 0x21 ∧ (t d).payload = [3, 255, 255, 7] ∧ (t d).source = 40)
      ∧ (3 : Byte).toNat < 4 ∧ (7 : Byte).toNat < 8 ∧ service.tables.mode ≠ .config
      ∧ service.pointEntry 0 = some (head 40) ∧ (head 40).headAddress = 40
      ∧ (∀ q f, service.pointEntry q = some f → f.headAddress = 40 → q = 0)
      ∧ (40 : Byte) ≠ service.ring.ownAddress
      ∧ (service.forwards (t 255) ∧ ¬service.forwards (t 12) ∧ 2 ≤ crowded.ring.forward.length)
      ∧ (s 63).points.queue.length < 64 ∧ 64 ≤ (s 64).points.queue.length :=
  ⟨fun d =>
      ⟨fun n => telegram_receives 0x21 d 40 41 [3, 255, 255, 7] (queueing (List.replicate n _) service) (by decide) rfl,
        telegram_receives 0x21 d 40 41 [3, 255, 255, 7] crowded (by decide) rfl⟩,
    fun _ => ⟨rfl, rfl, rfl⟩, by decide, by decide, by decide, rfl, rfl, service_head_unique, by decide, by decide,
    by decide, by decide⟩

theorem witness_RecordTaken :
    let r := event 41 false false 0 0
    let s := queueing [r] service
    s.pwron = false ∧ s.points.processing = none ∧ s.points.request = none ∧ s.points.queue = r :: []
      ∧ (processing r s).points.processing ≠ none ∧ (asking .skip s).points.request ≠ none
      ∧ service.points.queue = [] := by decide

/-- An indication of a head. -/
def unwell (r : EventRecord) : EventRecord :=
  { r with health := { s1Fault := true, s2Fault := false, internalFault := false } }

/-- The reference is 40, and once 255, whose successor is 1. -/
theorem witness_HealthyRecordChecked :
    let s := fun r => processing r service
    let wrapped := fun r => processing r (withPoint 0 { healthy with seqRef := some 255 } service)
    (∀ r, (s r).pwron = false ∧ (s r).points.processing = some r)
      ∧ ((service.point 0).status = .healthy ∧ (service.point 0).seqRef = some 40)
      ∧ (40 : Byte) ≠ 41 ∧ (0 : Byte) ≠ 41 ∧ (0 : Byte) ≠ 40 ∧ (1 : Byte) ≠ 41 ∧ (1 : Byte) ≠ 40 ∧ (1 : Byte) ≠ 0
      ∧ (unwell (event 41 false false 0 0)).health ≠ { s1Fault := false, s2Fault := false, internalFault := false }
      ∧ ((wrapped (event 1 false false 0 0)).point 0).status = .healthy
      ∧ ((wrapped (event 1 false false 0 0)).point 0).seqRef = some 255 :=
  ⟨fun _ => ⟨rfl, rfl⟩, by decide +kernel⟩

theorem witness_StartingPointLeaves :
    let s := fun r => processing r (withPoint 0 (PointRecord.initial .starting) service)
    let noHealth : Health := { s1Fault := false, s2Fault := false, internalFault := false }
    (∀ r, (s r).pwron = false ∧ (s r).points.processing = some r)
      ∧ ((s (event 0 false false 0 0)).point 0).status = .starting
      ∧ (unwell (event 0 false false 0 0)).health ≠ noHealth
      ∧ (event 0 true false 0 0).health = noHealth ∧ (event 0 true false 0 0).s1 = true
      ∧ (event 0 false true 0 0).s2 = true
      ∧ (event 0 false false 0 0).s1 = false ∧ (event 0 false false 0 0).s2 = false :=
  ⟨fun _ => ⟨rfl, rfl⟩, by decide +kernel⟩

/-- A point FAULTED after a gap. -/
def faulted (run : Nat) (seqRef : Option Byte) : PointRecord :=
  { healthy with status := .faulted, cause := .gap, run := run, seqRef := seqRef }

/-- The recovery count is 3, so a run of 1 goes on and a run of 2 ends. -/
theorem witness_FaultedPointRecovers :
    let s := fun n q r => processing r (withPoint 0 (faulted n q) service)
    (∀ n q r, (s n q r).pwron = false ∧ (s n q r).points.processing = some r)
      ∧ (∀ n : Fin 3, ((s n (some 2) (event 3 false false 0 0)).point 0).status = .faulted
        ∧ (s n (some 2) (event 3 false false 0 0)).pointEntry 0 = some (head 40)
        ∧ ((s n (some 2) (event 3 false false 0 0)).point 0).run = n.val
        ∧ ((s n (some 2) (event 3 false false 0 0)).point 0).seqRef = some 2)
      ∧ 1 + 1 < (head 40).recoveryCount ∧ (head 40).recoveryCount ≤ 2 + 1
      ∧ (∀ q : Byte, some 2 = some q → (event 3 false false 0 0).seq = if q = 255 then 1 else q + 1)
      ∧ (event 3 true false 0 0).s1 = true ∧ ((s 0 none (event 0 false false 0 0)).point 0).seqRef = none :=
  ⟨fun _ _ _ => ⟨rfl, rfl⟩, by decide +kernel, by decide, by decide, fun q h => by cases h; decide, rfl,
    by decide +kernel⟩

theorem witness_FaultRequestTakenOrDropped :
    let s := asking .skip service
    let d := asking .suspect (withPoint 0 (faulted 0 none) service)
    s.pwron = false ∧ s.points.request = some { point := 0, cause := .skip } ∧ (s.point 0).status = .healthy
      ∧ d.pwron = false ∧ d.points.request = some { point := 0, cause := .suspect }
      ∧ (d.point 0).status ≠ .healthy := by decide +kernel

/-- The window is 200 ms. -/
theorem witness_SupervisionExpires :
    let at' := fun (r : PointRecord) (n : Time) => { withPoint 0 r service with now := n }
    let m : Timer := { start := 0, length := 200 }
    ((at' healthy 200).pwron = false ∧ ((at' healthy 200).point 0).supervision = some m
        ∧ m.length ≤ ((200 : Time) - m.start).toNat ∧ ((at' healthy 200).point 0).status = .healthy)
      ∧ (((at' (faulted 1 none) 200).point 0).supervision = some m
        ∧ ((at' (faulted 1 none) 200).point 0).status = .faulted)
      ∧ (((at' healthy 199).point 0).supervision = some m ∧ ((199 : Time) - m.start).toNat < m.length)
      ∧ ((at' (PointRecord.initial .unused) 200).point 0).status ≠ .healthy
      ∧ ((at' (PointRecord.initial .unused) 200).point 0).status ≠ .faulted := by decide +kernel

/-- Activation succeeded at 0, and point 0 is still STARTING. -/
def starting (n : Time) : State :=
  let s := withPoint 0 (PointRecord.initial .starting) service
  { s with
    now := n
    sections := { s.sections with records := Vector.replicate 32 { SectionRecord.atPowerOn with cause := .start } }
    tables := { s.tables with mode := .startUp, startLimit := some { start := 0, length := 10000 } } }

theorem witness_StartUpLimitExpires :
    let m : Timer := { start := 0, length := 10000 }
    (∀ n, (starting n).pwron = false ∧ (starting n).tables.mode = .startUp ∧ (starting n).tables.startLimit = some m)
      ∧ m.length ≤ ((starting 10000).now - m.start).toNat ∧ ((starting 9999).now - m.start).toNat < m.length
      ∧ (∀ i, ((starting 10000).sect i).state = .disturbed)
      ∧ (∃ p, ((starting 10000).point p).status = .starting)
      ∧ ∀ p, ((withPoint 0 healthy (starting 10000)).point p).status ≠ .starting :=
  ⟨fun _ => ⟨rfl, rfl, rfl⟩, by decide, by decide, by decide +kernel, ⟨0, by decide +kernel⟩, by decide +kernel⟩

/-- A point in a phase, with a lead outside IDLE. -/
def inPhase (x : Phase) (suspect speed : Nat) : PointRecord :=
  { healthy with
    phase := x
    lead := if x = .idle then none else some { tick := 0, arrival := 0 }
    suspect := suspect
    lastSpeed := speed }

/-- The record `r` of point 0 in processing, with point 0 in the phase `x`. -/
def stepping (x : Phase) (r : EventRecord) : State := processing r (withPoint 0 (inPhase x 0 0) service)

/-- In each phase, a record with the next sequence steps the phase machine. -/
theorem stepping_steps (x : Phase) (s1 s2 : Bool) : StepsOn (event 41 s1 s2 0 0) (stepping x (event 41 s1 s2 0 0)) := by
  have h : ∀ x : Phase, ((stepping x (event 41 s1 s2 0 0)).point 0).status = .healthy
      ∧ ((stepping x (event 41 s1 s2 0 0)).point 0).seqRef.map seqSuccessor = some 41 := by
    intro x; cases x <;> cases s1 <;> cases s2 <;> decide +kernel
  exact ⟨rfl, rfl, (h x).1, (h x).2, rfl⟩

/-- The phase and the lead of point 0. -/
theorem stepping_phase (x : Phase) (r : EventRecord) :
    ((stepping x r).point 0).phase = x ∧ (x ≠ .idle → ((stepping x r).point 0).lead ≠ none)
      ∧ (stepping x r).pointEntry 0 = some (head 40) := by
  have : (stepping x r).point 0 = inPhase x 0 0 := rfl
  rw [this]
  exact ⟨rfl, fun h => by simp [inPhase, h], rfl⟩

theorem witness_HeartbeatsAndSkips :
    (∀ x s1 s2, StepsOn (event 41 s1 s2 0 0) (stepping x (event 41 s1 s2 0 0)))
      ∧ (Phase.levels .idle = (false, false)) ∧ Phase.levels .up2 = (true, true) :=
  ⟨stepping_steps, rfl, rfl⟩

/-- Each of the six phases outside IDLE, with the levels of each of its clauses. -/
theorem witness_StepsWithinAPass :
    ∀ x ∈ [Phase.up1, .up2, .up3, .dn1, .dn2, .dn3], ∀ s1 s2,
      let r := event 41 s1 s2 0 0
      StepsOn r (stepping x r) ∧ (stepping x r).pointEntry 0 = some (head 40)
        ∧ (∃ l, ((stepping x r).point 0).lead = some l) ∧ ((stepping x r).point 0).phase = x := by
  intro x hx s1 s2
  refine ⟨stepping_steps x s1 s2, (stepping_phase x _).2.2, ?_, (stepping_phase x _).1⟩
  exact Option.ne_none_iff_exists'.1 ((stepping_phase x _).2.1 (by rintro rfl; simp at hx))

/-- The spans at the ends of their ranges: 1199 and 1200 ms, 0 and 1 ticks, and the least spacing. -/
theorem witness_SpeedMeasured :
    let arrivalSpan := fun a b : Time => (b.toNat + 4294967296 - a.toNat) % 4294967296
    let tickSpan := fun a b : HeadTick => (b.toNat + 65536 - a.toNat) % 65536
    1200 ≤ arrivalSpan 0 1200 ∧ arrivalSpan 0 1199 < 1200 ∧ tickSpan 65535 65535 = 0 ∧ tickSpan 65535 0 = 1
      ∧ 40 ≤ 40 ∧ arrivalSpan 4294967000 300 = 596 := by decide +kernel

theorem witness_WheelArrivesOrRollsBack :
    ∀ x ∈ [Phase.idle, .up1, .dn1], ∀ s1 s2,
      let r := event 41 s1 s2 0 0
      StepsOn r (stepping x r) ∧ ((stepping x r).point 0).phase = x :=
  fun x _ s1 s2 => ⟨stepping_steps x s1 s2, (stepping_phase x _).1⟩

/-- The ceiling is 1200 and the suspect limit 3. -/
theorem witness_PassCompleted :
    let r := event 41 false false 0 0
    let s := fun x suspect speed => processing r (withPoint 0 (inPhase x suspect speed) service)
    (∀ x suspect speed, StepsOn r (s x suspect speed) ∧ (s x suspect speed).pointEntry 0 = some (head 40))
      ∧ ((s .up3 0 1200).point 0).phase = .up3 ∧ ((s .dn3 0 1200).point 0).phase = .dn3
      ∧ r.s1 = false ∧ r.s2 = false ∧ (service.sides 0).sideA ≠ (service.sides 0).sideB
      ∧ ((s .up3 0 1200).point 0).lastSpeed ≤ (head 40).ceiling
      ∧ ((head 40).ceiling < ((s .up3 1 1201).point 0).lastSpeed
        ∧ ((s .up3 1 1201).point 0).suspect + 1 < (head 40).suspectLimit)
      ∧ ((head 40).ceiling < ((s .dn3 2 1201).point 0).lastSpeed
        ∧ (head 40).suspectLimit ≤ ((s .dn3 2 1201).point 0).suspect + 1) := by
  exact ⟨fun x n v =>
    ⟨⟨rfl, rfl, rfl, show (some (40 : Byte)).map seqSuccessor = some 41 by decide, rfl⟩, rfl⟩, by decide +kernel⟩

/-! ## Hypotheses that are met: sections, the peer and reports -/

/-- The peer PRESENT, with an entry of section 1 that arrived at 0. -/
def present (x : SectionState) (s : State) : State :=
  { s.setPeerEntry 1 (some { state := x, count := 0, serial := 9, arrival := 0 }) with
    peer :=
      { (s.setPeerEntry 1 (some { state := x, count := 0, serial := 9, arrival := 0 })).peer with
        state := .present
        silence := some { start := 0, length := 2000 } } }

/-- Section 1 SETTLING since 0. -/
def settling (n : Time) (s : State) : State :=
  { s.setSect 1 { clear with state := .settling, settle := some { start := 0, length := 2000 } } with now := n }

/-- The peer address is 0. -/
def alone (s : State) : State :=
  { s with tables := { s.tables with params := some { record with peerAddress := 0 } } }

/-- The settle time is 2000 ms, and so is the silence limit: an entry may be exactly that old. -/
theorem witness_SettleTimerExpires :
    let m : Timer := { start := 0, length := 2000 }
    let granted := settling 2000 (present .clear service)
    (∀ n, (settling n service).pwron = false)
      ∧ (∀ s ∈ [settling 1999 service, settling 2000 (alone service), granted, settling 2000 service],
        (s.sect 1).state = .settling ∧ (s.sect 1).settle = some m)
      ∧ ((settling 1999 service).now - m.start).toNat < m.length
      ∧ (m.length ≤ ((settling 2000 (alone service)).now - m.start).toNat
        ∧ (settling 2000 (alone service)).peerAddress = 0)
      ∧ (m.length ≤ (granted.now - m.start).toNat ∧ granted.peerAddress ≠ 0)
      ∧ (granted.sectionConfigured 1 = true ∧ granted.peer.state = .present
        ∧ ∃ r e, granted.tables.params = some r ∧ granted.peerEntry 1 = some e
          ∧ (e.state = .awaitPeer ∨ e.state = .clear) ∧ (granted.now - e.arrival).toNat ≤ r.silenceLimit * 100)
      ∧ (settling 2000 service).peerAddress ≠ 0 ∧ (settling 2000 service).peer.state ≠ .present :=
  ⟨fun _ => rfl, by decide +kernel, by decide, by decide, by decide,
    ⟨by decide, rfl, record, { state := .clear, count := 0, serial := 9, arrival := 0 }, rfl, by decide +kernel, by decide,
      by decide⟩,
    by decide, by decide⟩

/-- The compare timer of section 1, of 300 ms, started at 0. -/
def comparing (n : Time) (s : State) : State := { s.setCompare 1 (some { start := 0, length := 300 }) with now := n }

theorem witness_CompareTimerExpires :
    let m : Timer := { start := 0, length := 300 }
    let down := comparing 300 (service.setSect 1 SectionRecord.atPowerOn)
    (∀ s ∈ [comparing 299 service, comparing 300 service, down], s.pwron = false ∧ s.compareTimer 1 = some m)
      ∧ ((comparing 299 service).now - m.start).toNat < m.length
      ∧ m.length ≤ (down.now - m.start).toNat ∧ (down.sect 1).state = .disturbed
      ∧ ((comparing 300 service).sect 1).state ≠ .disturbed := by decide +kernel

/-- The peer state replaced. -/
def peerIn (x : PeerState) (s : State) : State := { s with peer := { s.peer with state := x } }

/-- A report of 1 and one of 4 entries in the own version, and one in another; for the interlocking or for channel A itself. -/
theorem witness_PartnerReportTaken :
    let t := fun (d : Byte) (r : Report) => telegram 0x42 d 13 40 r.toBytes
    let other : Report := { fullReport 1 with version := 413 }
    (∀ r ∈ [fullReport 1, fullReport 4, other], ∀ d,
        (∀ x, Receives (t d r) (receiving (t d r) (peerIn x service))) ∧ (t d r).kind = 0x42
          ∧ CarriesReport (t d r).payload r ∧ (t d r).source = record.peerAddress
          ∧ (t d r).source ≠ service.ring.ownAddress)
      ∧ service.tables.params = some record ∧ record.peerAddress ≠ 0 ∧ service.tables.mode ≠ .config
      ∧ (fullReport 4).version = service.tables.version ∧ other.version ≠ service.tables.version
      ∧ (peerIn .mismatched service).peer.state = .mismatched ∧ (peerIn .present service).peer.state ≠ .mismatched := by
  refine ⟨fun r hr d => ⟨fun x => telegram_receives _ _ _ _ _ (peerIn x service) ?_ rfl, rfl, ⟨rfl, ?_, ?_⟩, rfl, ?_⟩, rfl,
    by decide⟩
  · revert r; decide +kernel
  · revert r; decide +kernel
  · revert r; decide +kernel
  · show (13 : Byte) ≠ 12; decide

/-- Section 2 is the last that is configured. -/
theorem witness_ReportEntryTaken :
    let e := fun (i : SectionIndex) (x : SectionState) =>
      ({ index := i, state := x, count := 0, serial := 0, cause := .none } : ReportEntry)
    let s := (present .clear service).setSect 2 { clear with state := .awaitPeer }
    s.peer.state = .present ∧ s.tables.params ≠ none ∧ s.sectionConfigured (e 3 .clear).index = false
      ∧ s.sectionConfigured (e 2 .clear).index = true
      ∧ ((s.sect (e 2 .clear).index).state = .awaitPeer ∧ (e 2 .clear).state = .clear)
      ∧ (e 2 .awaitPeer).state = .awaitPeer
      ∧ ¬((s.sect (e 1 .clear).index).state = .awaitPeer) := by decide +kernel

theorem witness_PeerSilenceExpires :
    let m : Timer := { start := 0, length := 2000 }
    let at' := fun n : Time => { present .clear service with now := n }
    (∀ n, (at' n).pwron = false ∧ (at' n).peer.silence = some m)
      ∧ ((at' 1999).now - m.start).toNat < m.length ∧ m.length ≤ ((at' 2000).now - m.start).toNat :=
  ⟨fun _ => ⟨rfl, rfl⟩, by decide, by decide⟩

/-- The cycle pointer at 3 finds section 0 after 29 steps, by way of 31. -/
theorem witness_ReportTimersExpire :
    let m : Timer := { start := 0, length := 500 }
    let at' := fun n : Time =>
      { service with now := n, reports := { service.reports with cyclePointer := 3, cycleTimer := some m } }
    let held := fun n : Time =>
      { service with now := n, reports := { service.reports with hold := .running { start := 0, length := 5 } } }
    (∀ n, (at' n).pwron = false ∧ (at' n).tables.params = some record ∧ (at' n).tables.sections ≠ []
        ∧ (at' n).reports.cycleTimer = some m)
      ∧ ((at' 499).now - m.start).toNat < m.length ∧ m.length ≤ ((at' 500).now - m.start).toNat
      ∧ (at' 500).sectionConfigured ((at' 500).reports.cyclePointer + 29) = true
      ∧ (∀ j : SectionIndex, j < 29 → (at' 500).sectionConfigured ((at' 500).reports.cyclePointer + j) = false)
      ∧ (∀ n, (held n).pwron = false ∧ (held n).reports.hold = .running { start := 0, length := 5 })
      ∧ ((held 4).now - 0).toNat < 5 ∧ 5 ≤ ((held 5).now - 0).toNat :=
  ⟨fun _ => ⟨rfl, rfl, by simp [service, areas], rfl⟩, by decide, by decide, by decide +kernel, by decide +kernel,
    fun _ => ⟨rfl, rfl⟩, by decide, by decide⟩

/-! ## Hypotheses that are met: requests and tables -/

/-- CONFIG, with the same tables held and nothing in use. -/
def config : State :=
  { State.reset with tables := { service.tables with activated := false, mode := .config, version := 0 } }

/-- An activation in flight, with its reservation. -/
def inFlight : State :=
  { config with
    requests :=
      { answers := [.reserved]
        activation := some { version := 412, source := 7, tag := 9, began := 0 }
        restartPending := false } }

/-- Every place of the answer queue is held. -/
def busyAnswers : State := answering (List.replicate 4 (.formed sample)) service

theorem witness_RequestAuthorityAndAdmission :
    let bare := State.reset
    Consumes 9 [0x01, 9] (request 9 [0x01, 9]) (receiving (request 9 [0x01, 9]) bare) ∧ bare.tables.params = none
      ∧ Consumes 9 [0x01, 9] (request 9 [0x01, 9]) (receiving (request 9 [0x01, 9]) service)
      ∧ service.tables.params = some record
      ∧ ¬service.authorised { source := 9, payload := [0x01, 9] } = true
      ∧ Consumes 7 [0x01, 9] (request 7 [0x01, 9]) (receiving (request 7 [0x01, 9]) busyAnswers)
      ∧ busyAnswers.authorised { source := 7, payload := [0x01, 9] } = true
      ∧ 4 ≤ busyAnswers.requests.answers.length :=
  ⟨request_consumes _ _ _ (by decide) rfl rfl (by decide), rfl, request_consumes _ _ _ (by decide) rfl rfl (by decide),
    rfl, by decide, request_consumes _ _ _ (by decide) rfl rfl (by decide), by decide, by decide⟩

/-- The empty payload, one byte, the unknown code 00h, a READ_SECTION a byte too long, and an ACTIVATE in flight. -/
theorem witness_RequestFormChecked :
    (∀ p ∈ [[], [(0x01 : Byte)], [0x00, 9], [0x02, 9, 0, 0]], Takes 7 p (request 7 p) (receiving (request 7 p) service))
      ∧ ([] : List Byte).length < 2 ∧ [(0x01 : Byte)].length < 2 ∧ (0x00 : Byte) ∉ requestCodes
      ∧ (0x02 : Byte) ∈ requestCodes ∧ requestLength 0x02 [(0 : Byte), 0].head? ≠ some [(0x02 : Byte), 9, 0, 0].length
      ∧ Takes 7 [0x24, 9, 1, 156] (request 7 [0x24, 9, 1, 156]) (receiving (request 7 [0x24, 9, 1, 156]) inFlight)
      ∧ (0x24 : Byte) ∈ requestCodes
      ∧ requestLength 0x24 [(1 : Byte), 156].head? = some [(0x24 : Byte), 9, 1, 156].length
      ∧ inFlight.requests.activation ≠ none ∧ (0x24 : Byte) ≠ 0x01 ∧ (0x24 : Byte) ≠ 0x30 := by
  refine ⟨fun p hp => request_takes p service ?_ rfl rfl ?_ (by decide), by decide, by decide, by decide, by decide,
    by decide, request_takes _ inFlight (by decide) rfl rfl (by decide) (by decide), by decide, by decide, by decide,
    by decide, by decide⟩
  · revert p; decide
  · revert p; decide

/-- A request of the maintenance node taken in SERVICE. -/
theorem taken_in_service (p : List Byte) (hp : p.length ≤ 28) :
    Takes 7 p (request 7 p) (receiving (request 7 p) service) :=
  request_takes p service hp rfl rfl (by simp [State.authorised, State.isMaintenance, service, record]) (by decide)

/-- A request of the maintenance node taken in CONFIG. -/
theorem taken_in_config (p : List Byte) (hp : p.length ≤ 28) :
    Takes 7 p (request 7 p) (receiving (request 7 p) config) :=
  request_takes p config hp rfl rfl (by simp [State.authorised, State.isMaintenance, config, service, record])
    (by decide)

/-- Sections 2 and 3 are the last configured and the first unused one; 47 and 48 the ends of the point indices. -/
theorem witness_ReadRequestsAnswered :
    Takes 7 [0x01, 9] (request 7 [0x01, 9]) (receiving (request 7 [0x01, 9]) service)
      ∧ service.requests.activation = none
      ∧ (∀ x, Takes 7 [0x02, 9, x] (request 7 [0x02, 9, x]) (receiving (request 7 [0x02, 9, x]) service))
      ∧ ((2 : Byte).toNat = (2 : SectionIndex).val ∧ service.sectionConfigured 2 = true)
      ∧ (∀ i : SectionIndex, (3 : Byte).toNat = i.val → service.sectionConfigured i = false)
      ∧ (∀ i : SectionIndex, (32 : Byte).toNat = i.val → service.sectionConfigured i = false)
      ∧ (∀ x, Takes 7 [0x03, 9, x] (request 7 [0x03, 9, x]) (receiving (request 7 [0x03, 9, x]) service))
      ∧ (47 : Byte).toNat = (47 : PointIndex).val ∧ 48 ≤ (48 : Byte).toNat :=
  ⟨taken_in_service _ (by decide), rfl, fun _ => taken_in_service _ (by simp), by decide, by decide +kernel,
    by decide +kernel, fun _ => taken_in_service _ (by simp), by decide, by decide⟩

/-- R59: 1901 ms left are 20 steps, 1900 ms are 19, and the longest settle time is 255. -/
theorem test_settle_time_is_rounded_up :
    let steps := fun (length : Nat) (n : Time) => settleSteps (some { start := 0, length := length }) n
    steps 2000 99 = 20 ∧ steps 2000 100 = 19 ∧ steps 25500 0 = 255 := by decide +kernel

theorem witness_AttentionAndSuspectRequests :
    service.requests.activation = none
      ∧ (∀ x y, Takes 7 [0x04, 9, x, y] (request 7 [0x04, 9, x, y]) (receiving (request 7 [0x04, 9, x, y]) service)
        ∧ Takes 7 [0x11, 9, x, y] (request 7 [0x11, 9, x, y]) (receiving (request 7 [0x11, 9, x, y]) service))
      ∧ (∀ x, Takes 7 [0x13, 9, x] (request 7 [0x13, 9, x]) (receiving (request 7 [0x13, 9, x]) service))
      ∧ ((1 : Byte).toNat = (1 : PointIndex).val ∧ service.pointConfigured 1 = true)
      ∧ (∀ p : PointIndex, (2 : Byte).toNat = p.val → service.pointConfigured p = false)
      ∧ ∀ p : PointIndex, (48 : Byte).toNat = p.val → service.pointConfigured p = false :=
  ⟨rfl, fun _ _ => ⟨taken_in_service _ (by simp), taken_in_service _ (by simp)⟩, fun _ => taken_in_service _ (by simp),
    by decide, by decide +kernel, by decide +kernel⟩

/-- Section 1 DISTURBED with serial 57 (4.9). -/
def disturbed : State :=
  service.setSect 1 { state := .disturbed, count := 3, serial := 57, cause := .pointFault, settle := none }

/-- Section 1 may be restored directly, section 0 by sweep alone; with point 1 FAULTED or a wheel over point 0, section 1 is
not ready. -/
theorem witness_RestorationJudged :
    let ready := fun (direct : Bool) (s : State) (b : Boundary) =>
      (s.point b.point).status = .healthy ∧ (direct = true → (s.point b.point).phase = .idle)
    let e := area [{ point := 0, inside := .b }, { point := 1, inside := .a }] .sweepOrDirect
    let off := withPoint 1 (faulted 0 none) disturbed
    let wheel := withPoint 0 (inPhase .up1 0 0) disturbed
    (∀ (direct : Bool) (x q : Byte), ∀ s ∈ [config, service, disturbed, off, wheel],
        Takes 7 [if direct then 0x12 else 0x05, 9, x, q] (request 7 [if direct then 0x12 else 0x05, 9, x, q])
          (receiving (request 7 [if direct then 0x12 else 0x05, 9, x, q]) s)
        ∧ s.requests.activation = none)
      ∧ config.tables.mode ≠ .service ∧ disturbed.tables.mode = .service
      ∧ (∀ i : SectionIndex, (3 : Byte).toNat = i.val → disturbed.sectionConfigured i = false)
      ∧ ((1 : Byte).toNat = (1 : SectionIndex).val ∧ disturbed.sectionEntry 1 = some e)
      ∧ (disturbed.sectionEntry 0 = some (area [{ point := 0, inside := .a }] .sweepOnly)
        ∧ Permission.sweepOnly ≠ .sweepOrDirect)
      ∧ e.permission = .sweepOrDirect ∧ (service.sect 1).state ≠ .disturbed
      ∧ (disturbed.sect 1).state = .disturbed ∧ (56 : Byte) ≠ (disturbed.sect 1).serial
      ∧ (57 : Byte) = (disturbed.sect 1).serial
      ∧ (e.boundaries = [{ point := 0, inside := .b }] ++ { point := 1, inside := .a } :: []
        ∧ (∀ c ∈ [({ point := 0, inside := .b } : Boundary)], ready false off c)
        ∧ ¬ready false off { point := 1, inside := .a })
      ∧ (e.boundaries = [] ++ { point := 0, inside := .b } :: [{ point := 1, inside := .a }]
        ∧ ¬ready true wheel { point := 0, inside := .b })
      ∧ ∀ b ∈ e.boundaries, ready true disturbed b ∧ ready false disturbed b := by
  refine ⟨fun direct x q s hs => ?_, by decide, by decide, by decide +kernel, by decide, by decide, by decide,
    by decide +kernel, by decide +kernel, by decide +kernel, by decide +kernel, by decide +kernel, by decide +kernel,
    by decide +kernel⟩
  have h : s.pwron = false ∧ s.ring.ownAddress = 12 ∧ s.requests.answers.length < 4 ∧ s.requests.activation = none
      ∧ s.isMaintenance 7 = true := by
    revert s; decide +kernel
  exact ⟨request_takes _ s (by simp) h.1 h.2.1 (Bool.or_eq_true_iff.2 (.inl h.2.2.2.2)) h.2.2.1, h.2.2.2.1⟩

theorem witness_EnterConfigStopsEvaluation :
    Takes 7 [0x20, 9] (request 7 [0x20, 9]) (receiving (request 7 [0x20, 9]) config)
      ∧ config.requests.activation = none ∧ config.tables.mode = .config
      ∧ Takes 7 [0x20, 9] (request 7 [0x20, 9]) (receiving (request 7 [0x20, 9]) service)
      ∧ service.requests.activation = none ∧ service.tables.mode ≠ .config :=
  ⟨taken_in_config _ (by decide), rfl, rfl, taken_in_service _ (by decide), rfl, by decide⟩

/-- A load of the POINTS table with a count of 2 and the given entries staged. -/
def loading (es : List PointEntry) : State :=
  config.setLoad (some { staged := .points es, count := 2, idle := { start := 0, length := 5000 } })

/-- A request of the maintenance node taken while the load is open. -/
theorem taken_while_loading (es : List PointEntry) (p : List Byte) (hp : p.length ≤ 28) :
    Takes 7 p (request 7 p) (receiving (request 7 p) (loading es)) :=
  request_takes p (loading es) hp rfl rfl
    (by simp [State.authorised, State.isMaintenance, loading, State.setLoad, config, service, record])
    (by show (0 : Nat) < 4; decide)

/-- A table code and an entry count that LOAD_OPEN accepts (R172). -/
abbrev valid (x n : Byte) : Prop :=
  x = 1 ∧ 1 ≤ n.toNat ∧ n.toNat ≤ 48 ∨ x = 2 ∧ 1 ≤ n.toNat ∧ n.toNat ≤ 32 ∨ x = 3 ∧ n = 1

/-- The counts 48, 32 and 1 are the highest of the three tables, 49, 33 and 2 too high, and 0 too low. -/
theorem witness_LoadOpenedAndClosed :
    (∀ x n, Takes 7 [0x21, 9, x, n] (request 7 [0x21, 9, x, n]) (receiving (request 7 [0x21, 9, x, n]) service)
        ∧ Takes 7 [0x21, 9, x, n] (request 7 [0x21, 9, x, n]) (receiving (request 7 [0x21, 9, x, n]) config)
        ∧ Takes 7 [0x21, 9, x, n] (request 7 [0x21, 9, x, n]) (receiving (request 7 [0x21, 9, x, n]) (loading [])))
      ∧ service.requests.activation = none ∧ config.requests.activation = none
      ∧ service.tables.mode ≠ .config ∧ config.tables.mode = .config ∧ config.tables.load = none
      ∧ (loading []).tables.mode = .config ∧ (loading []).tables.load ≠ none
      ∧ (valid 1 1 ∧ valid 1 48 ∧ valid 2 1 ∧ valid 2 32 ∧ valid 3 1)
      ∧ (¬valid 1 0 ∧ ¬valid 1 49 ∧ ¬valid 2 0 ∧ ¬valid 2 33 ∧ ¬valid 3 0 ∧ ¬valid 3 2 ∧ ¬valid 0 1 ∧ ¬valid 4 1)
      ∧ Takes 7 [0x23, 9] (request 7 [0x23, 9]) (receiving (request 7 [0x23, 9]) config)
      ∧ (∀ es, Takes 7 [0x23, 9] (request 7 [0x23, 9]) (receiving (request 7 [0x23, 9]) (loading es)))
      ∧ (Staged.points [head 40]).size < 2 ∧ 2 ≤ (Staged.points [head 40, head 41]).size :=
  ⟨fun _ _ => ⟨taken_in_service _ (by simp), taken_in_config _ (by simp), taken_while_loading _ _ (by simp)⟩, rfl, rfl,
    by decide, rfl, rfl, rfl, by simp [loading, State.setLoad], by decide,
    ⟨by decide, by decide, by decide, by decide, by decide, by decide, by decide, by decide⟩,
    taken_in_config _ (by decide), fun es => taken_while_loading es _ (by decide), by decide, by decide⟩

/-- Either table may be the one that completes the pair: no sections held before, or no parameter record held before. -/
theorem witness_LoadCloseEffects :
    let noSections := { config with tables := { config.tables with sections := [] } }
    let noRecord := { config with tables := { config.tables with params := none } }
    (config.tables.params ≠ none ∧ config.tables.sections ≠ [])
      ∧ (noSections.tables.params = some record ∧ areas ≠ [] ∧ noSections.tables.sections = [])
      ∧ noRecord.tables.params = none ∧ noRecord.tables.sections ≠ [] := by decide

/-- Entry 0 expected, then entry 1, then none; a spacing of 39 mm is out of range. -/
theorem witness_LoadEntryStaged :
    let fields : List Byte := [40, 0, 140, 4, 176, 20, 3, 3]
    let narrow : List Byte := [40, 0, 39, 4, 176, 20, 3, 3]
    (∀ es x index f, f.length = 8 →
        Takes 7 (0x22 :: 9 :: x :: index :: f) (request 7 (0x22 :: 9 :: x :: index :: f))
          (receiving (request 7 (0x22 :: 9 :: x :: index :: f)) (loading es)))
      ∧ (fields.length = 8 ∧ narrow.length = 8 ∧ requestLength 0x22 (some 1) = some (4 + 8))
      ∧ (∀ es, (loading es).requests.activation = none ∧ (loading es).tables.load ≠ none)
      ∧ config.tables.load = none ∧ config.requests.activation = none
      ∧ Takes 7 (0x22 :: 9 :: 1 :: 0 :: fields) (request 7 (0x22 :: 9 :: 1 :: 0 :: fields))
        (receiving (request 7 (0x22 :: 9 :: 1 :: 0 :: fields)) config)
      ∧ 2 ≤ (Staged.points [head 40, head 41]).size
      ∧ ((Staged.points []).size < 2 ∧ (1 : Byte).toNat ≠ (Staged.points []).size)
      ∧ ((Staged.points [head 40]).size < 2 ∧ (1 : Byte).toNat = (Staged.points [head 40]).size)
      ∧ firstBadField (entryFieldChecks (.points [head 40]) (1 :: 1 :: narrow)) = some 4
      ∧ firstBadField (entryFieldChecks (.points [head 40]) (1 :: 1 :: fields)) = none := by
  refine ⟨fun es x index f hf => taken_while_loading es _ (by simp [hf]), ⟨rfl, rfl, rfl⟩,
    fun es => ⟨rfl, by simp [loading, State.setLoad]⟩, rfl, rfl, taken_in_config _ ?_, ?_, ⟨?_, ?_⟩, ⟨?_, rfl⟩, ?_, ?_⟩
  all_goals decide +kernel

/-- A section entry with one boundary and the longest settle time is good; with two boundaries, the second of which is no side of
a point, and no settle time, its first bad field is the second slot, field 5 (R152). The same entry is of the right length for
its own table (R151), and with a load of POINTS open its table code, field 1, is out of range. -/
theorem witness_EntryFieldsChecked :
    firstBadField
        (entryFieldChecks (.sections []) ([2, 0, 1, 47, 2] ++ List.replicate 10 0 ++ [255, 2])) = none
      ∧ requestLength 0x22 (some 2) = some (2 + ([2, 0, 1, 47, 2] ++ List.replicate 10 0 ++ [255, 2] : List Byte).length)
      ∧ (2 : Byte) ≠ 1
      ∧ firstBadField (entryFieldChecks (.points []) ([2, 0, 1, 47, 2] ++ List.replicate 10 0 ++ [255, 2])) = some 1
      ∧ firstBadField
          (entryFieldChecks (.sections []) ([2, 0, 2, 47, 2] ++ List.replicate 10 0 ++ [0, 2])) = some 5 := by
  decide +kernel

theorem witness_ActivateAndRestartRequests :
    let p : List Byte := [0x24, 9, 1, 156]
    Takes 7 p (request 7 p) (receiving (request 7 p) service) ∧ Takes 7 p (request 7 p) (receiving (request 7 p) config)
      ∧ Takes 7 p (request 7 p) (receiving (request 7 p) (loading []))
      ∧ Takes 7 [0x24, 9, 0, 0] (request 7 [0x24, 9, 0, 0]) (receiving (request 7 [0x24, 9, 0, 0]) config)
      ∧ service.requests.activation = none ∧ config.requests.activation = none
      ∧ service.tables.mode ≠ .config ∧ config.tables.mode = .config ∧ config.tables.load = none
      ∧ (loading []).tables.mode = .config ∧ (loading []).tables.load ≠ none
      ∧ BitVec.ofNat 16 ((0 : Byte).toNat * 256 + (0 : Byte).toNat) = 0
      ∧ BitVec.ofNat 16 ((1 : Byte).toNat * 256 + (156 : Byte).toNat) ≠ 0
      ∧ Takes 7 [0x30, 9] (request 7 [0x30, 9]) (receiving (request 7 [0x30, 9]) service) :=
  ⟨taken_in_service _ (by decide), taken_in_config _ (by decide), taken_while_loading _ _ (by decide),
    taken_in_config _ (by decide), rfl, rfl, by decide, rfl, rfl, rfl, by simp [loading, State.setLoad], by decide,
    by decide, taken_in_service _ (by decide)⟩

theorem witness_LoadIdleTimeoutAborts :
    let at' := fun n : Time => { loading [] with now := n }
    let idle : Timer := { start := 0, length := 5000 }
    config.pwron = false ∧ config.tables.load = none
      ∧ (∀ n, (at' n).pwron = false ∧ (at' n).tables.load = some { staged := .points [], count := 2, idle := idle })
      ∧ idle.length ≤ ((at' 5000).now - idle.start).toNat ∧ ((at' 4999).now - idle.start).toNat < idle.length :=
  ⟨rfl, rfl, fun _ => ⟨rfl, rfl⟩, by decide, by decide⟩

/-- The tables of the area are valid, and invalid with a head at the address of the partner. -/
theorem witness_ActivationEnds :
    let a : Activation := { version := 412, source := 7, tag := 9, began := 0 }
    let bad := { inFlight with tables := { inFlight.tables with points := [head 40, head 13] } }
    (inFlight.pwron = false ∧ inFlight.requests.activation = some a ∧ inFlight.validate = none)
      ∧ (bad.pwron = false ∧ bad.requests.activation = some a ∧ bad.validate = some (8, 1)) := by decide +kernel

/-! ## Hypotheses that are met: the invariants -/

/-- Channel A in SERVICE, with its partner PRESENT and an entry of section 1 held. -/
def running : State := present .clear service

/-- The idle step always answers a next state. -/
theorem running_steps : ∃ t, step running = .next t := ⟨_, rfl⟩

theorem record_inRange : record.InRange := by constructor <;> decide

theorem witness_TablesStaySound : TablesSound running ∧ ∃ t, step running = .next t := by
  refine ⟨⟨⟨by decide, ?_⟩, ⟨by decide, ?_⟩, ?_, fun l h => by cases h⟩, running_steps⟩
  · intro e he
    have : e = head 40 ∨ e = head 41 := by simpa [running, present, service, State.setPeerEntry] using he
    rcases this with rfl | rfl <;> constructor <;> decide
  · intro e he
    have h : ∀ e ∈ running.tables.sections,
        (1 ≤ e.boundaries.length ∧ e.boundaries.length ≤ 6) ∧ 1 ≤ e.settleTime ∧ e.settleTime ≤ 255 := by decide
    exact ⟨(h e he).1, (h e he).2⟩
  · intro r h
    have : r = record := Option.some.inj h.symm
    exact this ▸ record_inRange

theorem witness_BuffersStaySound : BuffersSound running ∧ ∃ t, step running = .next t :=
  ⟨⟨fun _ _ _ h => (by cases h), by decide, by decide, by decide, by decide, by decide, by decide, by decide,
    fun h => absurd rfl h⟩, running_steps⟩

/-- The two configured points are HEALTHY, the others UNUSED. -/
theorem running_point (p : PointIndex) :
    running.point p = if p.val < 2 then healthy else PointRecord.initial .unused := by
  revert p; decide +kernel

theorem running_pointEntry (p : PointIndex) (e : PointEntry) (h : running.pointEntry p = some e) :
    e.suspectLimit = 3 ∧ e.recoveryCount = 3 := by
  have key : ∀ p : PointIndex,
      ((running.pointEntry p).all fun e => decide (e.suspectLimit = 3 ∧ e.recoveryCount = 3)) = true := by decide +kernel
  have := key p
  rw [h] at this
  exact of_decide_eq_true this

theorem witness_PointsStaySound : PointsSound running ∧ ∃ t, step running = .next t := by
  refine ⟨⟨fun p => ?_, fun q h => by cases h⟩, running_steps⟩
  have hc : running.pointConfigured p = true ↔ p.val < 2 := by
    simp [State.pointConfigured, running, present, service, State.setPeerEntry]
  by_cases hp : p.val < 2
  · constructor <;> simp only [running_point, hp, hc, if_true] <;> simp [healthy, PointRecord.initial]
  · constructor <;> simp only [running_point, hp, hc, if_false] <;> simp [PointRecord.initial]

/-- The three configured sections are CLEAR, the others DISTURBED. -/
theorem running_sect (i : SectionIndex) :
    running.sect i = if i.val < 3 then clear else SectionRecord.atPowerOn := by
  revert i; decide +kernel

theorem witness_TrackIsSound : TrackSound running ∧ ∃ t, step running = .next t := by
  have hb : ∀ i : SectionIndex, ∀ b ∈ running.boundaries i,
      (running.point b.point).status = .healthy ∧ (running.point b.point).phase = .idle := by decide +kernel
  have hm : ∀ (p : PointIndex) (i : SectionIndex),
      ((running.sides p).sideA = some i ↔ { point := p, inside := .a } ∈ running.boundaries i)
        ∧ ((running.sides p).sideB = some i ↔ { point := p, inside := .b } ∈ running.boundaries i)
        ∧ ¬((running.sides p).sideA = some i ∧ (running.sides p).sideB = some i) := by decide +kernel
  have hn : ∀ i : SectionIndex, ((running.sect i).state ≠ .disturbed → running.sectionConfigured i = true)
      ∧ ((running.sect i).count = 0) := by decide +kernel
  refine ⟨⟨fun i => ?_, by decide, fun h => absurd rfl h, fun h => absurd rfl h, fun _ => hm, fun _ _ => rfl,
    fun i _ b h => (hb i b h).1, fun i _ => ⟨(hn i).2, fun b h => (hb i b h).2⟩⟩, running_steps⟩
  by_cases hi : i.val < 3
  · refine ⟨?_, ?_, ?_, ?_, (hn i).1⟩ <;> simp [running_sect, hi, clear]
  · refine ⟨?_, ?_, ?_, ?_, (hn i).1⟩ <;> simp [running_sect, hi, SectionRecord.atPowerOn]

theorem witness_PeerStaysSound : PeerSound running ∧ ∃ t, step running = .next t :=
  ⟨⟨fun h => absurd h (by decide), by decide, fun _ => by decide, fun h => absurd rfl h,
    by decide +kernel, fun h => absurd rfl h⟩, running_steps⟩

theorem witness_ArbiterStaysSettled :
    ArbiterSettled running ∧ running.pwron = false ∧ running.ring.tx = .idle ∧ ∃ t, step running = .next t :=
  ⟨fun _ _ => ⟨rfl, fun h => absurd h (by decide)⟩, rfl, rfl, running_steps⟩

end Sys2Proof.Tests
end

section
/-! PROOFS. The measured speed (2.4): the stages of R31, R32 and R33, one equation for each, and what they give together. -/

namespace Sys2Proof.Machine

/-- A wrapping difference read as the spec writes a span: the true difference modulo the number of values. -/
theorem toNat_sub_eq_span {n : Nat} (a b : BitVec n) : (a - b).toNat = (a.toNat + 2 ^ n - b.toNat) % 2 ^ n := by
  rw [BitVec.toNat_sub', Nat.add_sub_assoc b.isLt.le]

/-- R33: 40 × 1800 exceeds the largest tick span, so the quotient never truncates to 0. -/
theorem speedQuotient_pos {spacing span : Nat} (hs : 40 ≤ spacing) (hpos : 0 < span) (hlt : span < 65536) :
    1 ≤ spacing * 1800 / span := by
  rw [Nat.le_div_iff_mul_le hpos]
  omega

/-- R33: the limited quotient saturates exactly up to a tick span of 0.45 times the spacing. -/
theorem limitedQuotient_eq_limit_iff {spacing span : Nat} (hpos : 0 < span) :
    min 4000 (spacing * 1800 / span) = 4000 ↔ 100 * span ≤ 45 * spacing := by
  rw [min_eq_left_iff, Nat.le_div_iff_mul_le hpos]
  omega

section
variable {l : Lead} {tick : HeadTick} {arrival : Time} {spacing : Nat}

/-- Stage 2, the creep test (R31). -/
theorem measureSpeed_of_creep (h : 1200 ≤ (arrival - l.arrival).toNat) : measureSpeed l tick arrival spacing = 0 :=
  if_pos h

/-- Stages 3 to 5, past the creep test (R32, R33). -/
theorem measureSpeed_of_not_creep (h : (arrival - l.arrival).toNat < 1200) :
    measureSpeed l tick arrival spacing
      = if (tick - l.tick).toNat = 0 then 4000 else min 4000 (spacing * 1800 / (tick - l.tick).toNat) :=
  if_neg (Nat.not_le.2 h)

/-- Stage 4, the saturation test (R32). -/
theorem measureSpeed_of_no_ticks (h : (arrival - l.arrival).toNat < 1200) (h0 : (tick - l.tick).toNat = 0) :
    measureSpeed l tick arrival spacing = 4000 :=
  (measureSpeed_of_not_creep h).trans (if_pos h0)

/-- Stage 5, the limited quotient (R33). -/
theorem measureSpeed_of_ticks (h : (arrival - l.arrival).toNat < 1200) (h0 : (tick - l.tick).toNat ≠ 0) :
    measureSpeed l tick arrival spacing = min 4000 (spacing * 1800 / (tick - l.tick).toNat) :=
  (measureSpeed_of_not_creep h).trans (if_neg h0)

/-- A measured speed of 0 means a creep pass and nothing else (R33). -/
theorem measureSpeed_pos (h : (arrival - l.arrival).toNat < 1200) (hs : 40 ≤ spacing) :
    1 ≤ measureSpeed l tick arrival spacing := by
  by_cases h0 : (tick - l.tick).toNat = 0
  · rw [measureSpeed_of_no_ticks h h0]
    decide
  · rw [measureSpeed_of_ticks h h0]
    exact le_min (by decide) (speedQuotient_pos hs (Nat.pos_of_ne_zero h0) (tick - l.tick).isLt)

/-- Stage 5 saturates exactly up to 0.45 times the spacing (R33). -/
theorem measureSpeed_eq_limit_iff (h : (arrival - l.arrival).toNat < 1200) (h0 : (tick - l.tick).toNat ≠ 0) :
    measureSpeed l tick arrival spacing = 4000 ↔ 100 * (tick - l.tick).toNat ≤ 45 * spacing := by
  rw [measureSpeed_of_ticks h h0]
  exact limitedQuotient_eq_limit_iff (Nat.pos_of_ne_zero h0)

/-- Every stage yields a speed the point record can hold (2.4). -/
theorem measureSpeed_le (l : Lead) (tick : HeadTick) (arrival : Time) (spacing : Nat) :
    measureSpeed l tick arrival spacing ≤ 4000 := by
  rcases Nat.lt_or_ge (arrival - l.arrival).toNat 1200 with h | h
  · by_cases h0 : (tick - l.tick).toNat = 0
    · exact (measureSpeed_of_no_ticks h h0).le
    · exact (measureSpeed_of_ticks h h0).trans_le (min_le_left _ _)
  · exact (measureSpeed_of_creep h).trans_le (Nat.zero_le _)

end

/-- Settles O29: each clause is a stage's lemma, once the spans are read as the wrapping differences of the model. -/
theorem speedMeasured : Obligations.SpeedMeasured := by
  intro l tick arrival spacing speed arrivalSpan tickSpan
  have harrival : (arrival - l.arrival).toNat = arrivalSpan := toNat_sub_eq_span arrival l.arrival
  have htick : (tick - l.tick).toNat = tickSpan := toNat_sub_eq_span tick l.tick
  have hwrap : l.arrival = 4294967000 → arrival = 300 → (arrival - l.arrival).toNat = 596 := by
    intro hl ha
    rw [hl, ha]
    decide
  rw [← harrival, ← htick]
  exact ⟨measureSpeed_of_creep, measureSpeed_of_no_ticks, measureSpeed_of_ticks, measureSpeed_pos,
    measureSpeed_eq_limit_iff, measureSpeed_le l tick arrival spacing, hwrap⟩

end Sys2Proof.Machine
end

section
/-! PROOFS. Disagreement about a section (5.4): what R103 gives with no entry held and with one. -/

namespace Sys2Proof.Machine

section
variable {s : State} {i : SectionIndex} {e : PeerEntry}

/-- R103: with no entry held the channels agree. -/
theorem disagree_of_no_entry (h : s.peerEntry i = none) : s.disagree i = false := by
  simp [State.disagree, h]

/-- R103 with an entry held and the own section DISTURBED: the counts play no part. -/
theorem disagree_iff_of_own_disturbed (h : s.peerEntry i = some e) (hown : (s.sect i).state = .disturbed) :
    s.disagree i = true ↔
      s.sectionConfigured i = true ∧ s.peer.state = .present ∧ e.state ≠ .disturbed := by
  simp [State.disagree, h, hown, and_assoc]

/-- R103 with an entry held and the own section not DISTURBED. -/
theorem disagree_iff_of_own_not_disturbed (h : s.peerEntry i = some e) (hown : (s.sect i).state ≠ .disturbed) :
    s.disagree i = true ↔
      s.sectionConfigured i = true ∧ s.peer.state = .present
        ∧ (e.state = .disturbed ∨ (s.sect i).count ≠ e.count) := by
  simp [State.disagree, h, hown, and_assoc]

/-- R103 with an entry held: the two equations joined over the own state. -/
theorem disagree_iff_of_entry (h : s.peerEntry i = some e) :
    s.disagree i = true ↔
      s.sectionConfigured i = true ∧ s.peer.state = .present
        ∧ (¬((s.sect i).state = .disturbed ↔ e.state = .disturbed)
          ∨ (s.sect i).state ≠ .disturbed ∧ e.state ≠ .disturbed ∧ (s.sect i).count ≠ e.count) := by
  by_cases hown : (s.sect i).state = .disturbed
  · simp [disagree_iff_of_own_disturbed h hown, hown]
  · by_cases he : e.state = .disturbed <;> simp [disagree_iff_of_own_not_disturbed h hown, hown, he]

end

/-- Settles O34, by whether an entry is held. -/
theorem disagreementDefined : Obligations.DisagreementDefined := by
  intro i s
  cases h : s.peerEntry i with
  | none => simp [disagree_of_no_entry h]
  | some e => simp [disagree_iff_of_entry h]

end Sys2Proof.Machine
end

section
/-! PROOFS. What the actions that have no law of their own keep, the first steps of ENTER_CONFIG and of an activation, and the
ends of a transmission told apart. -/

namespace Sys2Proof.Machine

@[simp] theorem taken_keeps (s : State) :
    s.taken.now = s.now ∧ s.taken.pwron = s.pwron ∧ s.taken.warm = s.warm ∧ s.taken.ring = s.ring
      ∧ s.taken.sections = s.sections ∧ s.taken.peer = s.peer ∧ s.taken.reports = s.reports
      ∧ s.taken.requests = s.requests ∧ s.taken.tables = s.tables ∧ s.taken.attention = s.attention
      ∧ s.taken.freeCount = s.freeCount ∧ s.taken.pending = s.pending
      ∧ s.taken.points.records = s.points.records ∧ s.taken.points.queue = s.points.queue
      ∧ s.taken.points.request = s.points.request ∧ s.taken.points.processing = none := by
  simp [State.taken]

@[simp] theorem tick_keeps (s : State) :
    (tick s).ring = s.ring ∧ (tick s).pwron = s.pwron ∧ (tick s).points = s.points
      ∧ (tick s).sections = s.sections ∧ (tick s).peer = s.peer ∧ (tick s).reports = s.reports
      ∧ (tick s).requests = s.requests ∧ (tick s).tables = s.tables ∧ (tick s).attention = s.attention := by
  simp [tick]

@[simp] theorem startBit_keeps (d : Byte) (g : Bool) (s : State) :
    (startBit d g s).now = s.now ∧ (startBit d g s).pwron = s.pwron ∧ (startBit d g s).points = s.points
      ∧ (startBit d g s).sections = s.sections ∧ (startBit d g s).peer = s.peer
      ∧ (startBit d g s).reports = s.reports ∧ (startBit d g s).requests = s.requests
      ∧ (startBit d g s).tables = s.tables ∧ (startBit d g s).pending = s.pending
      ∧ (startBit d g s).ring.reception = s.ring.reception.take d g := by
  simp [startBit]

@[simp] theorem lineUp_keeps (d : Byte) (g : Bool) (s : State) :
    (lineUp d g s).now = s.now ∧ (lineUp d g s).pwron = s.pwron ∧ (lineUp d g s).points = s.points
      ∧ (lineUp d g s).sections = s.sections ∧ (lineUp d g s).peer = s.peer
      ∧ (lineUp d g s).reports = s.reports ∧ (lineUp d g s).requests = s.requests
      ∧ (lineUp d g s).tables = s.tables ∧ (lineUp d g s).pending = s.pending
      ∧ (lineUp d g s).ring.reception = Reception.ready.take d g := by
  simp [lineUp]

@[simp] theorem ringFree_keeps (s : State) :
    (ringFree s).now = s.now ∧ (ringFree s).pwron = s.pwron ∧ (ringFree s).points = s.points
      ∧ (ringFree s).sections = s.sections ∧ (ringFree s).peer = s.peer ∧ (ringFree s).reports = s.reports
      ∧ (ringFree s).requests = s.requests ∧ (ringFree s).tables = s.tables
      ∧ (ringFree s).pending = s.pending := by
  simp [ringFree]

@[simp] theorem assertPwron_keeps (s : State) :
    (assertPwron s).now = s.now ∧ (assertPwron s).warm = s.warm ∧ (assertPwron s).points = s.points
      ∧ (assertPwron s).sections = s.sections ∧ (assertPwron s).peer = s.peer
      ∧ (assertPwron s).reports = s.reports ∧ (assertPwron s).tables = { s.tables with load := none }
      ∧ (assertPwron s).pending = s.pending := by
  simp [assertPwron]

/-- The state in CONFIG that ENTER_CONFIG begins with (R176). -/
def State.inConfig (s : State) : State :=
  { s with tables := { s.tables with mode := .config, activated := false, startLimit := none } }

theorem enterConfig_eq (s : State) :
    enterConfig s = peerReset (resetPoints .inactive (sectionsToConfig s.inConfig)) := rfl

@[simp] theorem inConfig_keeps (s : State) :
    s.inConfig.now = s.now ∧ s.inConfig.pwron = s.pwron ∧ s.inConfig.warm = s.warm ∧ s.inConfig.ring = s.ring
      ∧ s.inConfig.points = s.points ∧ s.inConfig.sections = s.sections ∧ s.inConfig.peer = s.peer
      ∧ s.inConfig.reports = s.reports ∧ s.inConfig.requests = s.requests ∧ s.inConfig.attention = s.attention
      ∧ s.inConfig.freeCount = s.freeCount ∧ s.inConfig.pending = s.pending
      ∧ s.inConfig.tables =
        { s.tables with mode := .config, activated := false, startLimit := none } := by
  simp [State.inConfig]

/-- The state in START-UP that a successful activation begins with (R179). -/
def State.inStartUp (s : State) (version : BitVec 16) : State :=
  { s with
    tables :=
      { s.tables with
        version := version
        activated := true
        mode := .startUp
        startLimit := some (s.startTimer 10000) } }

theorem activateTables_eq (version : BitVec 16) (s : State) :
    activateTables version s =
      restartCycle
        (peerReset (startSections .start (resetPoints .starting (buildSideMap (s.inStartUp version))))) := rfl

@[simp] theorem inStartUp_keeps (s : State) (v : BitVec 16) :
    (s.inStartUp v).now = s.now ∧ (s.inStartUp v).pwron = s.pwron ∧ (s.inStartUp v).warm = s.warm
      ∧ (s.inStartUp v).ring = s.ring ∧ (s.inStartUp v).points = s.points
      ∧ (s.inStartUp v).sections = s.sections ∧ (s.inStartUp v).peer = s.peer
      ∧ (s.inStartUp v).reports = s.reports ∧ (s.inStartUp v).requests = s.requests
      ∧ (s.inStartUp v).attention = s.attention ∧ (s.inStartUp v).freeCount = s.freeCount
      ∧ (s.inStartUp v).pending = s.pending
      ∧ (s.inStartUp v).tables =
        { s.tables with
          version := v, activated := true, mode := .startUp, startLimit := some { start := s.now, length := 10000 } } := by
  simp [State.inStartUp, State.startTimer]

/-- The state in GAP that a transmission end begins with (R138). -/
def State.inGap (s : State) : State := { s with ring := { s.ring with tx := .gap } }

@[simp] theorem inGap_keeps (s : State) :
    s.inGap.now = s.now ∧ s.inGap.pwron = s.pwron ∧ s.inGap.warm = s.warm ∧ s.inGap.points = s.points
      ∧ s.inGap.sections = s.sections ∧ s.inGap.peer = s.peer ∧ s.inGap.reports = s.reports
      ∧ s.inGap.requests = s.requests ∧ s.inGap.tables = s.tables ∧ s.inGap.attention = s.attention
      ∧ s.inGap.freeCount = s.freeCount ∧ s.inGap.pending = s.pending := by
  simp [State.inGap]

/-- R138: what a transmission end leaves is a forward buffer without its head, a watch list with one record more, or that
and then a warm restart. -/
theorem transmissionEnd_induction {P : State → Prop} {t : Telegram} {s : State}
    (hforward : P { s.inGap with ring := { s.inGap.ring with forward := s.ring.forward.tail } })
    (hwatch : P (watchAdd t.seq s.inGap)) (hrestart : ∀ u, P u → P (warmRestart u)) (cls : TxClass) :
    P (transmissionEnd t cls s) := by
  match cls with
  | .forwarded => exact hforward
  | .report => exact hwatch
  | .answer false => exact hwatch
  | .answer true => exact hrestart _ hwatch

end Sys2Proof.Machine
end

section
/-! PROOFS. The tables stay in range (chapters 1, 3 and 10): what the field checks of a LOAD_ENTRY let through is in range,
so that a load, and a table taken from it, holds only such entries. -/

namespace Sys2Proof.Machine

/-! ## Entries whose fields pass the checks (R152, R173) -/

theorem within_iff (lo n hi : Nat) : within lo n hi = true ↔ lo ≤ n ∧ n ≤ hi := by simp [within]

/-- Tables 1-1 and 8-14: the checks of a POINTS entry are the ranges of its fields. -/
theorem pointFieldChecks_iff (ps : List Byte) :
    (∀ c ∈ pointFieldChecks ps, c.2 = true) ↔ (pointEntryOf ps).InRange := by
  simp only [pointFieldChecks, pointEntryOf, List.forall_mem_cons, within_iff, List.not_mem_nil, false_implies,
    forall_const, and_true]
  constructor
  · rintro ⟨ha, sp, ce, wi, rc, sl⟩
    exact ⟨ha, sp, ce, wi, rc, sl⟩
  · rintro ⟨ha, sp, ce, wi, rc, sl⟩
    exact ⟨ha, sp, ce, wi, rc, sl⟩

/-- Tables 10-1 and 8-14: the checks of a PARAMETERS entry are the ranges of its fields; a byte is at most 255. -/
theorem paramFieldChecks_iff (ps : List Byte) :
    (∀ c ∈ paramFieldChecks ps, c.2 = true) ↔ (paramRecordOf ps).InRange := by
  simp only [paramFieldChecks, paramRecordOf, List.forall_mem_cons, within_iff, List.not_mem_nil, false_implies,
    forall_const, and_true]
  constructor
  · rintro ⟨pe, pa, il, ma, tr, ho, cy, si, co, ro, lo, hb⟩
    exact ⟨pe.2, pa.2, il, ma, tr, ho, cy, si, co, ro, lo, hb.1⟩
  · rintro ⟨pe, pa, il, ma, tr, ho, cy, si, co, ro, lo, hb⟩
    exact ⟨⟨Nat.zero_le _, pe⟩, ⟨Nat.zero_le _, pa⟩, il, ma, tr, ho, cy, si, co, ro, lo,
      hb, Nat.le_of_lt_succ (BitVec.isLt _)⟩

/-- As many slots as are all filled are read. -/
theorem length_filterMap_of_isSome {α β : Type} (f : α → Option β) (l : List α) (h : ∀ x ∈ l, (f x).isSome = true) :
    (l.filterMap f).length = l.length := by
  induction l with
  | nil => rfl
  | cons x l ih =>
    obtain ⟨b, hb⟩ := Option.isSome_iff_exists.1 (h x (by simp))
    rw [List.filterMap_cons_some hb, List.length_cons, List.length_cons, ih fun y hy => h y (by simp [hy])]

/-- Tables 3-1 and 8-14: a SECTIONS entry that passes its checks has as many boundaries as its count says. -/
theorem sectionEntryOf_inRange {ps : List Byte} (h : ∀ c ∈ sectionFieldChecks ps, c.2 = true) :
    (sectionEntryOf ps).InRange := by
  simp only [sectionFieldChecks, List.forall_mem_append, List.forall_mem_map, List.mem_range, List.forall_mem_cons,
    within_iff, Bool.or_eq_true, decide_eq_true_eq, List.not_mem_nil, false_implies, forall_const, and_true] at h
  obtain ⟨⟨count, slots⟩, settle, -⟩ := h
  have hlen : (sectionEntryOf ps).boundaries.length = (paramByte ps 2).toNat := by
    refine (length_filterMap_of_isSome _ _ fun j hj => ?_).trans List.length_range
    rw [List.mem_range] at hj
    exact (slots j (by omega)).resolve_left (by omega)
  exact ⟨hlen ▸ count, settle⟩

/-! ## Loads (Table 10-3) -/

@[simp] theorem stageEntry_size (x : Staged) (ps : List Byte) : (stageEntry x ps).size = x.size + 1 := by
  cases x <;> simp [stageEntry, Staged.size]

/-- R172: a load opens empty, with a count its table allows. -/
theorem loadOf_inRange {code count : Byte} {x : Staged} (h : loadOf code count = some x) (idle : Timer) :
    ({ staged := x, count := count.toNat, idle := idle } : Load).InRange := by
  unfold loadOf at h
  split at h
  · split at h
    · rename_i hw
      cases h
      exact ⟨Nat.zero_le _, (within_iff _ _ _).1 hw |>.1, (within_iff _ _ _).1 hw |>.2, by simp⟩
    · cases h
  · split at h
    · rename_i hw
      cases h
      exact ⟨Nat.zero_le _, (within_iff _ _ _).1 hw |>.1, (within_iff _ _ _).1 hw |>.2, by simp⟩
    · cases h
  · split at h
    · rename_i hw
      cases h
      exact ⟨Nat.zero_le _, Nat.le_antisymm ((within_iff _ _ _).1 hw).2 ((within_iff _ _ _).1 hw).1, by simp⟩
    · cases h
  · cases h

/-- R173: a load below its count stays in range with one entry more that passes its checks. -/
theorem stageEntry_inRange {l : Load} {ps : List Byte} (h : l.InRange) (hlt : l.staged.size < l.count)
    (hf : firstBadField (entryFieldChecks l.staged ps) = none) (idle : Timer) :
    ({ l with staged := stageEntry l.staged ps, idle := idle } : Load).InRange := by
  obtain ⟨staged, count, idle'⟩ := l
  obtain ⟨-, hin⟩ := h
  have hchecks := (firstBadField_none _).1 hf
  have hsize : (stageEntry staged ps).size ≤ count := by simpa using hlt
  refine ⟨hsize, ?_⟩
  cases staged with
  | points es =>
    obtain ⟨hlo, hhi, hes⟩ := hin
    have hnew := (pointFieldChecks_iff ps).1 fun c hc => hchecks c (List.mem_cons_of_mem _ hc)
    exact ⟨hlo, hhi, List.forall_mem_append.2 ⟨hes, by simpa using hnew⟩⟩
  | sections es =>
    obtain ⟨hlo, hhi, hes⟩ := hin
    have hnew := sectionEntryOf_inRange fun c hc => hchecks c (List.mem_cons_of_mem _ hc)
    exact ⟨hlo, hhi, List.forall_mem_append.2 ⟨hes, by simpa using hnew⟩⟩
  | parameters es =>
    obtain ⟨hcount, hes⟩ := hin
    have hnew := (paramFieldChecks_iff ps).1 fun c hc => hchecks c (List.mem_cons_of_mem _ hc)
    exact ⟨hcount, List.forall_mem_append.2 ⟨hes, by simpa using hnew⟩⟩

/-! ## The tables a LOAD_CLOSE leaves (Table 10-4) -/

theorem closeLoad_points_tables (es : List PointEntry) (s : State) :
    (closeLoad (.points es) s).tables = { s.tables with points := es, load := none } := by
  simp [closeLoad, State.setLoad]

theorem closeLoad_sections_tables (es : List SectionEntry) (s : State) :
    (closeLoad (.sections es) s).tables = { s.tables with sections := es, load := none } := by
  simp [closeLoad, State.setLoad]

theorem closeLoad_parameters_tables (es : List ParamRecord) (s : State) :
    (closeLoad (.parameters es) s).tables = { s.tables with params := es.getLast?, load := none } := by
  simp [closeLoad, State.setLoad]

/-! ## Soundness of the tables -/

/-- The soundness of the tables is one of their four parts. -/
theorem TablesSound.congr {s t : State} (h : TablesSound s)
    (ht : t.tables.points = s.tables.points ∧ t.tables.sections = s.tables.sections
      ∧ t.tables.params = s.tables.params ∧ t.tables.load = s.tables.load) : TablesSound t := by
  obtain ⟨hp, hs, hr, hl⟩ := ht
  exact ⟨hp ▸ h.points, hs ▸ h.sections, hr ▸ h.params, hl ▸ h.load⟩

/-- The same with the load dropped or put in range. -/
theorem TablesSound.withLoad {s t : State} (h : TablesSound s)
    (ht : t.tables.points = s.tables.points ∧ t.tables.sections = s.tables.sections
      ∧ t.tables.params = s.tables.params) (hl : ∀ l, t.tables.load = some l → l.InRange) : TablesSound t := by
  obtain ⟨hp, hs, hr⟩ := ht
  exact ⟨hp ▸ h.points, hs ▸ h.sections, hr ▸ h.params, hl⟩

/-- R175: the entries of a load in range make a table in range. -/
theorem closeLoad_tablesSound {l : Load} {s : State} (hl : l.InRange) (h : TablesSound s) :
    TablesSound (closeLoad l.staged s) := by
  obtain ⟨staged, count, idle⟩ := l
  obtain ⟨hsize, hin⟩ := hl
  cases staged with
  | points es =>
    obtain ⟨-, hhi, hes⟩ := hin
    have e := closeLoad_points_tables es s
    exact ⟨by rw [e]; exact ⟨hsize.trans hhi, hes⟩, by rw [e]; exact h.sections, by rw [e]; exact h.params,
      by rw [e]; simp⟩
  | sections es =>
    obtain ⟨-, hhi, hes⟩ := hin
    have e := closeLoad_sections_tables es s
    exact ⟨by rw [e]; exact h.points, by rw [e]; exact ⟨hsize.trans hhi, hes⟩, by rw [e]; exact h.params,
      by rw [e]; simp⟩
  | parameters es =>
    obtain ⟨-, hes⟩ := hin
    have e := closeLoad_parameters_tables es s
    exact ⟨by rw [e]; exact h.points, by rw [e]; exact h.sections,
      by rw [e]; exact fun r hr => hes r (List.mem_of_getLast? hr), by rw [e]; simp⟩

theorem powerOn_tablesSound (pins : Byte) (s : State) : TablesSound (powerOn pins s) := by
  constructor <;> simp [powerOn, State.reset]

theorem warmRestart_load (s : State) : (warmRestart s).tables.load = none := by rw [(warmRestart_spec s).tables]

theorem warmRestart_tablesSound {s : State} (h : TablesSound s) : TablesSound (warmRestart s) :=
  h.withLoad (by simp) (by simp [warmRestart_load])

/-- What every action keeps of the tables: those that touch them are the four of the load transaction and the restarts. -/
theorem tablesSound_kept : Kept TablesSound := by
  constructor
  case powerOn => exact fun pins s _ => powerOn_tablesSound pins s
  case warmRestart => exact fun _ => warmRestart_tablesSound
  case assertPwron => exact fun s h => h.withLoad (by simp) (by simp)
  case openLoad => exact fun code count x s _ _ _ hx h => h.withLoad (by simp) (by simpa using loadOf_inRange hx _)
  case keepLoad =>
    intro l s hl h
    have hin : ({ l with idle := s.idleTimer } : Load).InRange := h.load l hl
    exact h.withLoad (by simp) (by simpa using hin)
  case dropLoad => exact fun s h => h.withLoad (by simp) (by simp)
  case stage =>
    exact fun l ps s hl hlt hf h => h.withLoad (by simp) (by simpa using stageEntry_inRange (h.load l hl) hlt hf _)
  case closeLoad => exact fun l s hl _ h => closeLoad_tablesSound (h.load l hl) h
  case transmissionEnd =>
    exact fun t c s h => transmissionEnd_induction (h.congr (by simp)) (h.congr (by simp))
      (fun _ => warmRestart_tablesSound) c
  all_goals
    intros
    exact TablesSound.congr ‹TablesSound _› (by simp)

/-- Settles O54: every action keeps the tables in range, and the arbiter does not touch them. -/
theorem tablesStaySound : Obligations.TablesStaySound :=
  tablesSound_kept.step fun _ h => h.congr (by simp)

end Sys2Proof.Machine
end

section
/-! PROOFS. The four outcomes of the arbiter (7.6): nothing granted, a forwarded telegram, an answer, or a report. -/

namespace Sys2Proof.Machine

/-- A report is eligible only where a parameter record is held (R117, R121). -/
theorem params_of_eligible {s : State} (h : s.eligible = true) : ∃ r, s.tables.params = some r := by
  unfold State.eligible at h
  split at h
  · cases h
  · exact ⟨_, ‹_›⟩

/-- R158: the reservation is passed over, and every place but the one taken stays. -/
theorem takeAnswer_spec {places rest : List AnswerPlace} {a : Answer} (h : takeAnswer places = some (a, rest)) :
    ∃ earlier later, places = earlier ++ .formed a :: later ∧ rest = earlier ++ later ∧ ∀ x ∈ earlier, x = .reserved := by
  induction places generalizing rest with
  | nil => cases h
  | cons x places ih =>
    cases x with
    | formed b =>
      cases h
      exact ⟨[], places, rfl, rfl, by simp⟩
    | reserved =>
      unfold takeAnswer at h
      split at h
      · cases h
      · rename_i b rest' hrest
        cases h
        obtain ⟨earlier, later, hplaces, hrest, hres⟩ := ih hrest
        exact ⟨.reserved :: earlier, later, by rw [hplaces]; rfl, by rw [hrest]; rfl, by simpa using hres⟩

/-- R158: the first formed answer is the one taken. -/
theorem takeAnswer_append {earlier : List AnswerPlace} (h : ∀ x ∈ earlier, x = .reserved) (a : Answer)
    (later : List AnswerPlace) : takeAnswer (earlier ++ .formed a :: later) = some (a, earlier ++ later) := by
  induction earlier with
  | nil => rfl
  | cons x earlier ih =>
    obtain ⟨rfl, hrest⟩ := List.forall_mem_cons.1 h
    simp [takeAnswer, ih hrest]

/-- No answer is taken where none is formed. -/
theorem takeAnswer_eq_none {places : List AnswerPlace} : takeAnswer places = none ↔ ∀ a, .formed a ∉ places := by
  induction places with
  | nil => simp [takeAnswer]
  | cons x places ih =>
    cases x with
    | formed b => simpa [takeAnswer] using ⟨b, fun h => absurd rfl h⟩
    | reserved =>
      cases h : takeAnswer places with
      | none => simpa [takeAnswer, h] using ih.1 h
      | some found => simpa [takeAnswer, h] using ih

/-- R139, R140: what the arbiter grants. -/
theorem arbitrate_cases (s : State) :
    (arbitrate s = s
        ∧ (s.ring.tx = .idle →
          s.ring.forward = []
            ∧ (s.mayInsert = true → takeAnswer s.requests.answers = none ∧ s.eligible = false)))
      ∨ (∃ t, arbitrate s = { s with ring := { s.ring with tx := .sending t .forwarded } })
      ∨ (∃ a rest, takeAnswer s.requests.answers = some (a, rest) ∧ arbitrate s = grantAnswer s a rest)
      ∨ ∃ r : ParamRecord, arbitrate s =
        sendOwn (takeFormed s) kindSectionReport r.interlockingAddress s.formReport.toBytes .report := by
  cases htx : s.ring.tx with
  | sending t cls => exact .inl ⟨by simp [arbitrate, htx], by simp⟩
  | gap => exact .inl ⟨by simp [arbitrate, htx], by simp⟩
  | idle =>
    cases hf : s.ring.forward with
    | cons t rest => exact .inr (.inl ⟨t, by simp [arbitrate, htx, hf]⟩)
    | nil =>
      have hown : arbitrate s = grantOwn s := by simp [arbitrate, htx, hf]
      rw [hown, grantOwn]
      by_cases hm : s.mayInsert = true
      · cases ha : takeAnswer s.requests.answers with
        | some found => exact .inr (.inr (.inl ⟨found.1, found.2, rfl, by simp [hm]⟩))
        | none =>
          by_cases he : s.eligible = true
          · obtain ⟨r, hr⟩ := params_of_eligible he
            exact .inr (.inr (.inr ⟨r, by simp [hm, he, grantReport, hr]⟩))
          · exact .inl ⟨by simp [hm, he], fun _ => ⟨rfl, fun _ => ⟨rfl, by simpa using he⟩⟩⟩
      · exact .inl ⟨by simp [hm], fun _ => ⟨rfl, fun h => absurd h hm⟩⟩

end Sys2Proof.Machine
end

section
/-! PROOFS. Buffers, queues and counters stay within their size (chapters 1, 6, 7 and 9), block by block: the Ring Interface,
the point event queue, the report queue and the answer queue. -/

namespace Sys2Proof.Machine

/-! ## The Ring Interface -/

/-- The breaking of the loop (R144). -/
theorem breakLoop_eq (s : State) :
    breakLoop s =
      { s with
        ring := { s.ring with loop := .broken }
        attention :=
          { s.attention with
            latches := s.attention.latches ||| (if s.ring.loop = .intact then Latch.loopBroken.mask else 0) } } := by
  unfold breakLoop
  cases hl : s.ring.loop with
  | intact => rw [if_pos rfl, if_pos rfl]; rfl
  | broken =>
    rw [if_neg (by decide), if_neg (by decide), ← hl]
    simp

/-- The closing of a telegram in reception as bad, if there is one (R130, R131). -/
theorem closeBad_eq (s : State) :
    closeBad s =
      { s with
        ring := { s.ring with reception := .ready }
        attention :=
          { s.attention with
            latches :=
              s.attention.latches
                ||| (if s.ring.reception = .ready ∨ s.ring.reception = .skipping then 0
                  else Latch.badTelegram.mask) } } := by
  unfold closeBad
  cases h : s.ring.reception with
  | ready => simp
  | skipping => simp
  | collecting bytes badStop tooLong =>
    rw [if_neg (by simp)]
    rfl

/-- What a break leaves at the Ring Interface (R130). -/
theorem lineDown_ring (s : State) :
    (lineDown s).ring =
      { s.ring with condition := .lineDown, activity := .free, reception := .ready, loop := .broken } := by
  simp only [lineDown, breakLoop_eq, closeBad_eq]

/-- A reception holds 1 to 36 bytes of the telegram it collects (R131). -/
def Reception.Fits (r : Reception) : Prop :=
  ∀ bytes badStop tooLong, r = .collecting bytes badStop tooLong → 1 ≤ bytes.length ∧ bytes.length ≤ 36

theorem Reception.fits_of_not_collecting {r : Reception} (h : r = .ready ∨ r = .skipping) : r.Fits := by
  rintro bytes badStop tooLong rfl
  simp at h

theorem Reception.discarded_fits (r : Reception) : r.discarded.Fits :=
  fits_of_not_collecting (by cases r <;> simp [Reception.discarded])

/-- R131: the character joined is the 36th at most, and no byte is stored after it. -/
theorem collect_fits {bytes : List Byte} (h : bytes.length ≤ 36) (badStop tooLong : Bool) (d : Byte) (g : Bool) :
    (collect bytes badStop tooLong d g).Fits := by
  intro bytes' badStop' tooLong' e
  unfold collect at e
  split at e
  · cases e
    rw [List.length_append, List.length_singleton]
    omega
  · cases e
    omega

theorem Reception.take_fits {r : Reception} (h : r.Fits) (d : Byte) (g : Bool) : (r.take d g).Fits := by
  cases r with
  | ready => exact collect_fits (by simp) _ _ _ _
  | collecting bytes badStop tooLong => exact collect_fits (h _ _ _ rfl).2 _ _ _ _
  | skipping => exact fits_of_not_collecting (.inr rfl)

/-- R141: the own sequence passes over 0. -/
theorem seqSuccessor_ne_zero (q : Byte) : seqSuccessor q ≠ 0 := by
  unfold seqSuccessor
  split
  · decide
  · bv_omega

/-- The Ring Interface within its sizes. -/
structure RingInterface.Fits (r : RingInterface) : Prop where
  reception : r.reception.Fits
  forward : r.forward.length ≤ 2
  ownSeq : r.ownSeq ≠ 0
  watch : r.watch.length ≤ 8
  missRun : r.missRun ≤ 15

theorem RingInterface.restarted_fits (r : RingInterface) : r.restarted.Fits :=
  ⟨r.reception.discarded_fits, by simp [RingInterface.restarted], by simp [RingInterface.restarted],
    by simp [RingInterface.restarted], by simp [RingInterface.restarted]⟩

theorem warmRestart_ring (s : State) : (warmRestart s).ring = s.ring.restarted := by
  simp [warmRestart]

theorem forwardTelegram_fits {t : Telegram} {s : State} (h : s.ring.Fits) : (forwardTelegram t s).ring.Fits := by
  unfold forwardTelegram
  split
  · exact ⟨h.reception, by simpa using by omega, h.ownSeq, h.watch, h.missRun⟩
  · simpa using h

theorem countMiss_missRun (s : State) : (countMiss s).ring.missRun = min 15 (s.ring.missRun + 1) :=
  (countMiss_misses s s.ring.watch).run

theorem missOldest_fits {s : State} (h : s.ring.Fits) : (missOldest s).ring.Fits := by
  have hrun : (missOldest s).ring.missRun = min 15 (s.ring.missRun + 1) := countMiss_missRun _
  have hwatch : (missOldest s).ring.watch = s.ring.watch.tail := by simp [missOldest]
  refine ⟨by simpa using h.reception, by simpa using h.forward, by simpa using h.ownSeq, ?_, ?_⟩
  · rw [hwatch, List.length_tail]
    exact (Nat.sub_le _ _).trans h.watch
  · exact hrun.trans_le (min_le_left _ _)

/-- R142: a full watch list loses its oldest record before one joins. -/
theorem watchAdd_fits {q : Byte} {s : State} (h : s.ring.Fits) : (watchAdd q s).ring.Fits := by
  unfold watchAdd
  dsimp only
  split
  · have hm := missOldest_fits h
    have hwatch : (missOldest s).ring.watch = s.ring.watch.tail := by simp [missOldest]
    have hle := h.watch
    refine ⟨hm.reception, hm.forward, hm.ownSeq, ?_, hm.missRun⟩
    simp only [hwatch, List.length_append, List.length_tail, List.length_singleton]
    omega
  · exact ⟨h.reception, h.forward, h.ownSeq, by simpa using by omega, h.missRun⟩

theorem stripped_fits {t : Telegram} {s : State} (h : s.ring.Fits) : (stripped t s).ring.Fits := by
  unfold stripped
  split
  · exact ⟨h.reception, h.forward, h.ownSeq, (List.length_eraseP_le).trans h.watch, Nat.zero_le _⟩
  · exact h

theorem ringFits_kept : Kept fun s => s.ring.Fits := by
  constructor
  case powerOn =>
    exact fun pins s _ => ⟨s.ring.reception.discarded_fits, by simp [powerOn, State.reset],
      by simp [powerOn, State.reset], by simp [powerOn, State.reset], by simp [powerOn, State.reset]⟩
  case warmRestart => exact fun s _ => (warmRestart_ring s).symm ▸ s.ring.restarted_fits
  case assertPwron =>
    exact fun s h => ⟨s.ring.reception.discarded_fits, h.forward, h.ownSeq, h.watch, h.missRun⟩
  case reception =>
    exact fun r s hr h => ⟨Reception.fits_of_not_collecting hr, h.forward, h.ownSeq, h.watch, h.missRun⟩
  case startBit => exact fun d g s h => ⟨Reception.take_fits h.reception d g, h.forward, h.ownSeq, h.watch, h.missRun⟩
  case lineUp =>
    exact fun d g s h => ⟨Reception.take_fits (Reception.fits_of_not_collecting (.inl rfl)) d g, h.forward,
      h.ownSeq, h.watch, h.missRun⟩
  case lineDown =>
    intro s h
    rw [lineDown_ring]
    exact ⟨Reception.fits_of_not_collecting (.inl rfl), h.forward, h.ownSeq, h.watch, h.missRun⟩
  case ringFree =>
    exact fun s h => ⟨Reception.fits_of_not_collecting (.inl rfl), h.forward, h.ownSeq, h.watch, h.missRun⟩
  case stripped => exact fun _ _ => stripped_fits
  case forward => exact fun _ _ => forwardTelegram_fits
  case transmissionEnd =>
    intro t c s h
    have hgap : s.inGap.ring.Fits := ⟨h.reception, h.forward, h.ownSeq, h.watch, h.missRun⟩
    have htail : s.ring.forward.tail.length ≤ 2 := (List.length_tail ▸ Nat.sub_le _ _).trans h.forward
    exact transmissionEnd_induction (P := fun s => s.ring.Fits) ⟨h.reception, htail, h.ownSeq, h.watch, h.missRun⟩
      (watchAdd_fits hgap)
      (fun u _ => (warmRestart_ring u).symm ▸ u.ring.restarted_fits) c
  case gapEnd => exact fun s h => ⟨h.reception, h.forward, h.ownSeq, h.watch, h.missRun⟩
  case miss => exact fun _ => missOldest_fits
  all_goals
    intros
    simpa using ‹RingInterface.Fits _›

/-- R141: a grant of an own telegram takes the next own sequence number, and none else changes it. -/
theorem arbitrate_ownSeq (s : State) :
    (arbitrate s).ring.ownSeq = s.ring.ownSeq ∨ (arbitrate s).ring.ownSeq = seqSuccessor s.ring.ownSeq := by
  rcases arbitrate_cases s with ⟨e, -⟩ | ⟨t, e⟩ | ⟨a, rest, -, e⟩ | ⟨r, e⟩ <;> rw [e]
  · exact .inl rfl
  · exact .inl rfl
  · exact .inr rfl
  · exact .inr rfl

theorem arbitrate_fits {s : State} (h : s.ring.Fits) : (arbitrate s).ring.Fits := by
  refine ⟨by simpa using h.reception, by simpa using h.forward, ?_, by simpa using h.watch, by simpa using h.missRun⟩
  rcases arbitrate_ownSeq s with e | e
  · exact e ▸ h.ownSeq
  · exact e ▸ seqSuccessor_ne_zero _

/-! ## The point event queue (R6) -/

theorem offerRecord_events {r : EventRecord} {s : State} (h : s.points.queue.length ≤ 64) :
    (offerRecord r s).points.queue.length ≤ 64 := by
  unfold offerRecord
  split
  · simpa using by omega
  · simpa using h

theorem snoopHead_events {t : Telegram} {s : State} (h : s.points.queue.length ≤ 64) :
    (snoopHead t s).points.queue.length ≤ 64 := by
  unfold snoopHead
  repeat' split
  · exact h
  · exact offerRecord_events (by simpa using h)
  · exact h

theorem resetPoints_events (st : PointStatus) (s : State) : (resetPoints st s).points.queue = [] := rfl

theorem warmRestart_events (s : State) : (warmRestart s).points.queue = [] := (warmRestart_spec s).points.queue

theorem events_kept : Kept fun s => s.points.queue.length ≤ 64 := by
  constructor
  case powerOn => exact fun pins s _ => by simp [powerOn, State.reset]
  case warmRestart => exact fun s _ => by simp [warmRestart_events]
  case snoopHead => exact fun _ _ => snoopHead_events
  case enterConfig => exact fun s _ _ _ => by simp [enterConfig, resetPoints_events]
  case closeLoad =>
    intro l s _ _ h
    cases hl : l.staged <;> simp [closeLoad, resetPoints_events, h]
  case takeRecord =>
    intro s _ h
    unfold takeRecord
    split
    · exact h
    · rename_i r rest hq
      have : rest.length + 1 ≤ 64 := by simpa [hq] using h
      exact Nat.le_of_succ_le this
  case transmissionEnd =>
    exact fun t c s h => transmissionEnd_induction (P := fun s => s.points.queue.length ≤ 64) h (by simpa using h)
      (fun u _ => by simp [warmRestart_events]) c
  case activationEnd =>
    intro a s _ h
    unfold endActivation
    split <;> simp [activateTables, resetPoints_events, h]
  all_goals
    intros
    simpa using ‹_ ≤ 64›

/-! ## The report queue (R114) -/

/-- The report queue holds configured sections only, each at most once. -/
def ReportsFit (s : State) : Prop := s.reports.queue.Nodup ∧ ∀ i ∈ s.reports.queue, s.sectionConfigured i = true

theorem ReportsFit.congr {s t : State} (h : ReportsFit s)
    (ht : t.reports.queue = s.reports.queue ∧ t.tables.sections = s.tables.sections) : ReportsFit t := by
  obtain ⟨hq, hs⟩ := ht
  exact ⟨hq ▸ h.1, fun i hi => (sectionConfigured_congr hs i).trans (h.2 i (hq ▸ hi))⟩

/-- R114: sections that join the queue are configured and were not on it. -/
theorem ReportsFit.queues {l : List SectionIndex} {s t : State} (h : ReportsFit s) (hl : l.Nodup)
    (ht : t.tables.sections = s.tables.sections) (hq : Queues l s t) : ReportsFit t := by
  have hnew : ∀ i ∈ s.newcomers l, s.sectionConfigured i = true ∧ i ∉ s.reports.queue := by
    intro i hi
    simpa using (List.mem_filter.1 hi).2
  constructor
  · rw [hq.queue, List.nodup_append]
    exact ⟨h.1, hl.filter _, fun i hi j hj e => (hnew j hj).2 (e ▸ hi)⟩
  · intro i hi
    rw [sectionConfigured_congr ht]
    rw [hq.queue, List.mem_append] at hi
    exact hi.elim (h.2 i) fun hi => (hnew i hi).1

theorem queueReport_fits {i : SectionIndex} {s : State} (h : ReportsFit s) : ReportsFit (queueReport i s) :=
  h.queues (List.nodup_singleton i) (by simp) (queueReport_queues i s)

theorem queueAllSections_fits {s : State} (h : ReportsFit s) : ReportsFit (queueAllSections s) :=
  h.queues (configuredSections_nodup s) (by simp) (queueAllSections_queues s)

theorem commitSect_fits {i : SectionIndex} {r : SectionRecord} {s : State} (h : ReportsFit s) :
    ReportsFit (s.commitSect i r) :=
  h.queues ((List.nodup_singleton i).filter _) (by simp) (commitSect_told s i r).queues

theorem reportsFit_writes : Writes ReportsFit := by
  constructor
  case commit => exact fun _ _ _ => commitSect_fits
  all_goals
    intros
    exact ReportsFit.congr ‹ReportsFit _› (by simp)

theorem takeEntry_fits {e : ReportEntry} {s : State} (h : ReportsFit s) : ReportsFit (takeEntry s e) := by
  unfold takeEntry
  dsimp only
  repeat' split
  · exact reportsFit_writes.peerNotice _ _ (h.congr (by simp))
  · exact h.congr (by simp)
  · exact h

theorem foldl_takeEntry_fits (l : List ReportEntry) {s : State} (h : ReportsFit s) : ReportsFit (l.foldl takeEntry s) := by
  induction l generalizing s with
  | nil => exact h
  | cons e l ih => exact ih (takeEntry_fits h)

theorem snoopReport_fits {t : Telegram} {s : State} (h : ReportsFit s) : ReportsFit (snoopReport t s) := by
  unfold snoopReport takeReport
  dsimp only
  repeat' split
  · exact h
  · exact h
  · exact foldl_takeEntry_fits _ (h.congr (by simp))
  · exact h.congr (by simp)

theorem dropUnusedReports_fits {s : State} (h : s.reports.queue.Nodup) : ReportsFit (dropUnusedReports s) :=
  ⟨h.filter _, fun _ hi => (List.mem_filter.1 hi).2⟩

theorem maybeStartReporting_fits {b s : State} (h : ReportsFit s) : ReportsFit (maybeStartReporting b s) := by
  unfold maybeStartReporting
  split
  · exact h.congr (by simp)
  · exact h

theorem closeLoad_fits {x : Staged} {s : State} (h : ReportsFit s) : ReportsFit (closeLoad x s) := by
  cases x with
  | points es => exact h.congr (by simp [closeLoad])
  | sections es => exact maybeStartReporting_fits (dropUnusedReports_fits (by simpa using h.1))
  | parameters es => exact maybeStartReporting_fits (h.congr (by simp))

theorem cycle_fits {s : State} (h : ReportsFit s) : ReportsFit (cycle s) := by
  unfold cycle
  split
  · exact (queueReport_fits h).congr ⟨rfl, rfl⟩
  · exact h

/-- R116: a restart queues every configured section anew. -/
theorem warmRestart_fits (s : State) : ReportsFit (warmRestart s) := by
  have hq := (warmRestart_spec s).queue
  constructor
  · exact hq ▸ configuredSections_nodup s
  · intro i hi
    rw [hq] at hi
    rw [sectionConfigured_congr (s := s) (by simp)]
    exact (List.mem_filter.1 hi).2

theorem startSections_fits {c : SectionCause} {s : State} (h : ReportsFit s) : ReportsFit (startSections c s) :=
  queueAllSections_fits (h.congr (by simp))

theorem sectionsToConfig_fits {s : State} (h : ReportsFit s) : ReportsFit (sectionsToConfig s) := by
  unfold sectionsToConfig
  dsimp only
  split <;> exact queueAllSections_fits (h.congr (by simp))

theorem reportsFit_kept : Kept ReportsFit := by
  constructor
  case powerOn => exact fun pins s _ => ⟨by simp [powerOn, State.reset], by simp [powerOn, State.reset]⟩
  case warmRestart => exact fun s _ => warmRestart_fits s
  case snoopReport => exact fun _ _ => snoopReport_fits
  case restore => exact fun _ _ _ _ _ _ _ => commitSect_fits
  case enterConfig =>
    intro s _ _ h
    have hsect : ReportsFit (sectionsToConfig s.inConfig) := sectionsToConfig_fits (h.congr (by simp))
    exact enterConfig_eq s ▸ hsect.congr (by simp)
  case closeLoad => exact fun _ _ _ _ => closeLoad_fits
  case applyRecord => exact fun r s _ h => reportsFit_writes.applyRecord r _ (reportsFit_writes.taken s h)
  case takeRequest => exact fun q s _ => reportsFit_writes.takeRequest q s
  case supervision => exact fun p s _ => reportsFit_writes.supervision p s
  case startLimit => exact fun s hd => reportsFit_writes.startLimit s (by simp [State.startLimitDue] at hd; exact hd.1)
  case settle => exact fun _ _ _ => commitSect_fits
  case compare =>
    exact fun i s _ h => reportsFit_writes.disturb _ _ _ (h.congr (by simp))
  case cycle => exact fun _ => cycle_fits
  case transmissionEnd =>
    exact fun t c s h => transmissionEnd_induction (h.congr (by simp)) (h.congr (by simp))
      (fun u _ => warmRestart_fits u) c
  case activationEnd =>
    intro a s _ h
    unfold endActivation
    split
    · exact h.congr (by simp)
    · have hstart : ReportsFit (startSections .start (resetPoints .starting (buildSideMap (s.inStartUp a.version)))) :=
        startSections_fits (h.congr (by simp))
      exact hstart.congr (by simp [activateTables_eq])
  all_goals
    intros
    exact ReportsFit.congr ‹ReportsFit _› (by simp)

/-- R122: the arbiter takes entries of the report queue from its head only. -/
theorem arbitrate_reports (s : State) :
    (arbitrate s).reports.queue = s.reports.queue ∨ (arbitrate s).reports.queue = s.reports.queue.drop 4 := by
  rcases arbitrate_cases s with ⟨e, -⟩ | ⟨t, e⟩ | ⟨a, rest, -, e⟩ | ⟨r, e⟩ <;> rw [e]
  · exact .inl rfl
  · exact .inl rfl
  · exact .inl rfl
  · exact .inr rfl

theorem arbitrate_reportsFit {s : State} (h : ReportsFit s) : ReportsFit (arbitrate s) := by
  have hcfg : ∀ i, (arbitrate s).sectionConfigured i = s.sectionConfigured i := sectionConfigured_congr (by simp)
  rcases arbitrate_reports s with e | e
  · exact h.congr ⟨e, by simp⟩
  · exact ⟨e ▸ h.1.sublist (List.drop_sublist _ _),
      fun i hi => (hcfg i).trans (h.2 i (List.mem_of_mem_drop (e ▸ hi)))⟩

/-! ## The answer queue (R158, R159) -/

/-- The answer queue within its size, with a place reserved while an activation is in flight. -/
structure RequestExecutor.Fits (r : RequestExecutor) : Prop where
  answers : r.answers.length ≤ 4
  reservation : r.activation ≠ none → .reserved ∈ r.answers

theorem requestsFit_kept : Kept fun s => s.requests.Fits := by
  constructor
  case powerOn => exact fun pins s _ => ⟨by simp [powerOn, State.reset], by simp [powerOn, State.reset]⟩
  case warmRestart =>
    intro s _
    rw [(warmRestart_spec s).requests]
    exact ⟨by simp, by simp⟩
  case assertPwron => exact fun s h => ⟨List.length_erase_le.trans h.answers, by simp [assertPwron]⟩
  case pushAnswer =>
    intro a s hl h
    exact ⟨by simpa [pushAnswer] using hl, fun ha => List.mem_append_left _ (h.reservation ha)⟩
  case beginActivation =>
    intro a s _ _ _ hl _
    exact ⟨by simpa using hl, by simp⟩
  case transmissionEnd =>
    intro t c s h
    refine transmissionEnd_induction (P := fun s => s.requests.Fits) (by simpa using h) (by simpa using h)
      (fun u _ => ?_) c
    rw [(warmRestart_spec u).requests]
    exact ⟨by simp, by simp⟩
  case activationEnd =>
    intro a s ha h
    have hres : AnswerPlace.reserved ∈ s.requests.answers := h.reservation (by simp [ha])
    have hpos := List.length_pos_of_mem hres
    have hle := h.answers
    unfold endActivation
    split
    · exact ⟨by simp [answerActivation, List.length_erase_of_mem hres]; omega, by simp [answerActivation]⟩
    · exact ⟨by simp [answerActivation, List.length_erase_of_mem hres]; omega, by simp [answerActivation]⟩
  case markRestart => exact fun s h => ⟨h.answers, h.reservation⟩
  all_goals
    intros
    simpa using ‹RequestExecutor.Fits _›

/-- The arbiter takes at most one answer, and never the reservation. -/
theorem arbitrate_requests (s : State) :
    (arbitrate s).requests = s.requests
      ∨ ∃ (a : Answer) (rest : List AnswerPlace), takeAnswer s.requests.answers = some (a, rest)
        ∧ (arbitrate s).requests = { s.requests with answers := rest } := by
  rcases arbitrate_cases s with ⟨e, -⟩ | ⟨t, e⟩ | ⟨a, rest, ha, e⟩ | ⟨r, e⟩ <;> rw [e]
  · exact .inl rfl
  · exact .inl rfl
  · exact .inr ⟨a, rest, ha, rfl⟩
  · exact .inl rfl

theorem arbitrate_requestsFit {s : State} (h : s.requests.Fits) : (arbitrate s).requests.Fits := by
  rcases arbitrate_requests s with e | ⟨a, rest, ha, e⟩
  · exact e ▸ h
  · obtain ⟨earlier, later, hplaces, hrest, -⟩ := takeAnswer_spec ha
    have hle := h.answers
    rw [hplaces, List.length_append, List.length_cons] at hle
    refine e ▸ ⟨?_, fun hact => ?_⟩
    · simp only [hrest, List.length_append]
      omega
    · have := h.reservation hact
      rw [hplaces] at this
      simpa [hrest] using this

/-! ## All of them -/

/-- The sizes block by block. -/
theorem buffersSound_iff (s : State) :
    BuffersSound s ↔ s.ring.Fits ∧ s.points.queue.length ≤ 64 ∧ ReportsFit s ∧ s.requests.Fits := by
  constructor
  · rintro ⟨rec, fwd, seq, watch, run, events, reports, answers, reservation⟩
    exact ⟨⟨rec, fwd, seq, watch, run⟩, events, reports, answers, reservation⟩
  · rintro ⟨⟨rec, fwd, seq, watch, run⟩, events, reports, answers, reservation⟩
    exact ⟨rec, fwd, seq, watch, run, events, reports, answers, reservation⟩

/-- Settles O55, block by block: each block's sizes are kept by every action and by the arbiter. -/
theorem buffersStaySound : Obligations.BuffersStaySound := by
  intro s t h hstep
  rw [buffersSound_iff] at h ⊢
  obtain ⟨ring, events, reports, requests⟩ := h
  exact ⟨ringFits_kept.step (fun _ => arbitrate_fits) s t ring hstep,
    events_kept.step (fun s h => by simpa using h) s t events hstep,
    reportsFit_kept.step (fun _ => arbitrate_reportsFit) s t reports hstep,
    requestsFit_kept.step (fun _ => arbitrate_requestsFit) s t requests hstep⟩

end Sys2Proof.Machine
end

section
/-! PROOFS. The arbiter stays settled (7.6): a command that may let RING OUT be granted ends with the arbiter, and every other
leaves nothing new to grant. -/

namespace Sys2Proof.Machine

section
variable {P : State → Prop} {s t u : State}

/-- What a command does while PWRON is released is all it can do. -/
theorem powered_kept (hs : P s) (hu : P u) (h : powered s u = .next t) : P t := by
  rcases powered_next h with ⟨-, rfl⟩ | ⟨-, rfl⟩
  · exact hs
  · exact hu

end

/-- R139, R140: what the arbiter leaves is settled, whatever it found. -/
theorem arbitrate_settled (s : State) : ArbiterSettled (arbitrate s) := by
  intro _ htx
  rcases arbitrate_cases s with ⟨e, h⟩ | ⟨t, e⟩ | ⟨a, rest, -, e⟩ | ⟨r, e⟩ <;> rw [e] at htx ⊢
  · obtain ⟨hforward, hinsert⟩ := h htx
    exact ⟨hforward, fun hm => ⟨takeAnswer_eq_none.1 (hinsert hm).1, (hinsert hm).2⟩⟩
  · cases htx
  · cases htx
  · cases htx

/-- What counts at the arbiter: an asserted PWRON, a busy transmitter or a line that is not FREE only hold grants back. -/
theorem ArbiterSettled.congr {s t : State} (h : ArbiterSettled s) (hp : t.pwron = s.pwron) (htx : t.ring.tx = s.ring.tx)
    (hf : t.ring.forward = s.ring.forward) (hm : t.mayInsert = true → s.mayInsert = true)
    (ha : t.requests.answers = s.requests.answers) (he : t.eligible = s.eligible) : ArbiterSettled t := by
  intro hpt htxt
  obtain ⟨hforward, hinsert⟩ := h (hp ▸ hpt) (htx ▸ htxt)
  refine ⟨hf.trans hforward, fun hmt => ?_⟩
  obtain ⟨hformed, heligible⟩ := hinsert (hm hmt)
  exact ⟨fun a => ha ▸ hformed a, he.trans heligible⟩

theorem settled_of_busy {s : State} (h : s.ring.tx ≠ .idle) : ArbiterSettled s := fun _ htx => absurd htx h

theorem settled_of_pwron {s : State} (h : s.pwron = true) : ArbiterSettled s := by
  intro hp
  rw [h] at hp
  cases hp

theorem powerOn_settled (pins : Byte) (s : State) : ArbiterSettled (powerOn pins s) :=
  fun _ _ => ⟨rfl, fun _ => ⟨by simp [powerOn, State.reset], rfl⟩⟩

/-- R138: a transmission ends in GAP, with or without a warm restart. -/
theorem transmissionEnd_tx (t : Telegram) (cls : TxClass) (s : State) : (transmissionEnd t cls s).ring.tx = .gap := by
  match cls with
  | .forwarded => rfl
  | .report => simp [transmissionEnd]
  | .answer false => simp [transmissionEnd]
  | .answer true => simp [transmissionEnd, warmRestart_ring, RingInterface.restarted, Transmitter.cut]

/-- Where a command reads the arbiter's inputs, a miss touches none of them. -/
theorem missOldest_settled {s : State} (h : ArbiterSettled s) : ArbiterSettled (missOldest s) :=
  h.congr (by simp) (by simp) (by simp) (by simp [State.mayInsert, State.hasOwnAddress, State.ringInFree])
    (by simp) (by simp [State.eligible, State.reportingActive])

/-- A character makes the line RECEIVING, so that nothing may be inserted. -/
theorem not_mayInsert_of_receiving {s : State} (hc : s.ring.condition = .lineUp) (ha : s.ring.activity = .receiving) :
    s.mayInsert = false := by
  simp [State.mayInsert, State.ringInFree, hc, ha]

theorem startBit_settled {d : Byte} {g : Bool} {s : State} (hc : s.ring.condition ≠ .lineDown) (h : ArbiterSettled s) :
    ArbiterSettled (startBit d g s) := by
  have hup : s.ring.condition = .lineUp := by cases hs : s.ring.condition <;> simp_all
  refine h.congr rfl rfl rfl (fun hm => ?_) rfl rfl
  rw [not_mayInsert_of_receiving (s := startBit d g s) hup rfl] at hm
  cases hm

theorem lineUp_settled {d : Byte} {g : Bool} {s : State} (h : ArbiterSettled s) : ArbiterSettled (lineUp d g s) := by
  refine h.congr rfl rfl rfl (fun hm => ?_) rfl rfl
  rw [not_mayInsert_of_receiving (s := lineUp d g s) rfl rfl] at hm
  cases hm

theorem execStartBit_settled {d : Byte} {g : Bool} {s t : State} (h : ArbiterSettled s)
    (he : execStartBit d g s = .next t) : ArbiterSettled t := by
  unfold execStartBit at he
  split at he
  · cases he
    exact settled_of_pwron ‹_›
  · split at he
    · cases he
      exact lineUp_settled h
    · cases he
      exact startBit_settled ‹_› h

theorem execCompletesReception_settled {s t : State} (h : ArbiterSettled s)
    (he : execCompletesReception s = .next t) : ArbiterSettled t := by
  unfold execCompletesReception at he
  split at he
  · cases he
    exact settled_of_pwron ‹_›
  · cases he
    unfold completeReception
    dsimp only
    split
    · exact h
    · exact h.congr rfl rfl rfl id rfl rfl
    · exact arbitrate_settled _

theorem warmAsserted_settled {s : State} (h : ArbiterSettled s) : ArbiterSettled (warmAsserted s) := by
  unfold warmAsserted
  split
  · exact h
  · split
    · exact settled_of_pwron ‹_›
    · exact arbitrate_settled _

theorem applyTaken_settled {s : State} (h : ArbiterSettled s) : ArbiterSettled (applyTaken s) := by
  unfold applyTaken
  split
  · exact h
  · exact arbitrate_settled _

theorem requestTaken_settled {s : State} (h : ArbiterSettled s) : ArbiterSettled (requestTaken s) := by
  unfold requestTaken
  split
  · exact h
  · exact arbitrate_settled _

theorem activationEnded_settled {s : State} (h : ArbiterSettled s) : ArbiterSettled (activationEnded s) := by
  unfold activationEnded
  split
  · exact h
  · exact arbitrate_settled _

theorem sendingEnded_settled {s : State} (h : ArbiterSettled s) : ArbiterSettled (sendingEnded s) := by
  unfold sendingEnded
  split
  · exact settled_of_busy (by simp [transmissionEnd_tx])
  · exact h

/-- A command whose occasion exists and that ends with the arbiter. -/
theorem occasion_settled {c : Bool} {s u t : State} (h : ArbiterSettled s)
    (he : powered s (onlyIf c s (arbitrate u)) = .next t) : ArbiterSettled t :=
  powered_kept h (onlyIf_kept h fun _ => arbitrate_settled u) he

/-- Every command leaves the arbiter settled. -/
theorem exec_settled {c : Instr} {s t : State} (h : ArbiterSettled s) (he : exec c s = .next t) : ArbiterSettled t := by
  cases c <;> simp only [exec] at he
  case powerOnReset pins => cases he; exact powerOn_settled pins s
  case warmRestart => cases he; exact warmAsserted_settled h
  case lineDown => exact occasion_settled h he
  case lineUp d g => exact powered_kept h (onlyIf_kept h fun _ => lineUp_settled h) he
  case ringInFree => exact occasion_settled h he
  case completesReception => exact execCompletesReception_settled h he
  case recordTake =>
    exact powered_kept h (onlyIf_kept h fun _ => h.congr (by simp) (by simp) (by simp)
      (by simp [State.mayInsert, State.hasOwnAddress, State.ringInFree]) (by simp)
      (by simp [State.eligible, State.reportingActive])) he
  case recordApply => exact powered_kept h (applyTaken_settled h) he
  case skipOrSuspectRequestTaken => exact powered_kept h (requestTaken_settled h) he
  case supervisionExpiry p =>
    unfold execSupervisionExpiry at he
    split at he
    · exact occasion_settled h he
    · cases he
  case startUpLimitExpiry => exact occasion_settled h he
  case settleTimerExpiry i =>
    unfold execSettleTimerExpiry at he
    split at he
    · exact occasion_settled h he
    · cases he
  case peerSilenceExpiry =>
    refine powered_kept h (onlyIf_kept h fun _ => ?_) he
    exact h.congr rfl rfl rfl id rfl rfl
  case compareTimerExpiry i =>
    unfold execCompareTimerExpiry at he
    split at he
    · exact occasion_settled h he
    · cases he
  case cycleStep => exact occasion_settled h he
  case holdTimerExpiry => exact occasion_settled h he
  case transmissionEnd => exact powered_kept h (sendingEnded_settled h) he
  case transmitterGapEnd => exact occasion_settled h he
  case watchRecordExpiry => exact powered_kept h (onlyIf_kept h fun _ => missOldest_settled h) he
  case loadIdleTimeout =>
    refine powered_kept h (onlyIf_kept h fun _ => ?_) he
    exact h.congr rfl rfl rfl id rfl rfl
  case activationEnd => exact powered_kept h (activationEnded_settled h) he
  case pwronAsserted => cases he; exact settled_of_pwron rfl
  case startBit d g => exact execStartBit_settled h he
  case warmReleased => cases he; exact h.congr rfl rfl rfl id rfl rfl

theorem idle_settled {s : State} (h : ArbiterSettled s) : ArbiterSettled (idle s) := by
  unfold idle
  repeat' split
  · exact h
  all_goals exact h.congr rfl rfl rfl id rfl rfl

/-- Settles O59: by the command at the front of the queue, or the idle part. -/
theorem arbiterStaysSettled : Obligations.ArbiterStaysSettled := by
  intro s t h hstep
  unfold step at hstep
  split at hstep
  · refine exec_settled ?_ hstep
    exact h.congr rfl rfl rfl id rfl rfl
  · cases hstep
    exact idle_settled h

end Sys2Proof.Machine
end

section
/-! PROOFS. The Peer Comparator stays sound (5.1, 5.2, 5.4): a compare timer follows the evaluation of its section, and every
departure of the peer from PRESENT clears what is held of it. -/

namespace Sys2Proof.Machine

/-! ## The comparator without its timers, and the timers -/

/-- What holds of the Peer Comparator beside the compare timers (R95, R97..R99). -/
structure PeerHeld (s : State) : Prop where
  config : s.tables.mode = .config → s.peer.state = .absent
  silence : s.peer.silence ≠ none ↔ s.peer.state ≠ .absent
  named : s.peer.state ≠ .absent → s.tables.params ≠ none
  entries : s.peer.state ≠ .present → ∀ i, s.peerEntry i = none
  load : s.tables.load ≠ none → s.tables.mode = .config ∧ s.requests.activation = none

theorem peerSound_iff (s : State) :
    PeerSound s ↔ PeerHeld s ∧ ∀ i, s.compareTimer i ≠ none → s.disagree i = true := by
  constructor
  · rintro ⟨config, silence, named, entries, compare, load⟩
    exact ⟨⟨config, silence, named, entries, load⟩, compare⟩
  · rintro ⟨⟨config, silence, named, entries, load⟩, compare⟩
    exact ⟨config, silence, named, entries, compare, load⟩

/-- R103 asks for a PRESENT peer. -/
theorem present_of_disagree {s : State} {i : SectionIndex} (h : s.disagree i = true) : s.peer.state = .present :=
  ((disagreementDefined i s).1 h).2.1

/-- R103 reads the state and the count of the section, the peer state and the entry. -/
theorem disagree_congr {s t : State} {i : SectionIndex} (ht : t.tables.sections = s.tables.sections)
    (hp : t.peer.state = s.peer.state) (he : t.peerEntry i = s.peerEntry i)
    (hst : (t.sect i).state = (s.sect i).state) (hc : (t.sect i).count = (s.sect i).count) :
    t.disagree i = s.disagree i := by
  simp only [State.disagree, sectionConfigured_congr ht, hp, he, hst, hc]

/-- R97: an ABSENT peer leaves no timer to run. -/
theorem PeerSound.compareTimer_of_absent {s : State} (h : PeerSound s) (ha : s.peer.state = .absent)
    (i : SectionIndex) : s.compareTimer i = none := by
  by_contra hc
  have hpresent := present_of_disagree (h.compare i hc)
  rw [ha] at hpresent
  cases hpresent

/-- After a reset of the peer nothing is held of it. -/
theorem peerSound_of_reset {t : State} (h : PeerReset t)
    (hl : t.tables.load ≠ none → t.tables.mode = .config ∧ t.requests.activation = none) : PeerSound t :=
  ⟨fun _ => h.state, by simp [h.silence, h.state], fun hne => absurd h.state hne, fun _ => h.entries,
    fun i hc => absurd (h.compare i) hc, hl⟩

theorem peerReset_spec {t u : State} (h : t.peer = (peerReset u).peer) : PeerReset t :=
  ⟨by rw [h]; rfl, by rw [h]; rfl, fun i => by simp [State.peerEntry, h, peerReset],
    fun i => by simp [State.compareTimer, h, peerReset]⟩

/-- The comparator's soundness reads the sections, the peer, the tables and the activation in flight. -/
theorem PeerSound.congr {s t : State} (h : PeerSound s)
    (ht : t.tables.mode = s.tables.mode ∧ t.tables.sections = s.tables.sections
      ∧ t.tables.params = s.tables.params ∧ t.tables.load = s.tables.load ∧ t.peer = s.peer
      ∧ t.sections.records = s.sections.records ∧ t.requests.activation = s.requests.activation) : PeerSound t := by
  obtain ⟨hmode, hsections, hparams, hload, hpeer, hrecords, hact⟩ := ht
  have hentry : ∀ i, t.peerEntry i = s.peerEntry i := fun i => by simp only [State.peerEntry, hpeer]
  have hcompare : ∀ i, t.compareTimer i = s.compareTimer i := fun i => by simp only [State.compareTimer, hpeer]
  refine ⟨by rw [hmode, hpeer]; exact h.config, by rw [hpeer]; exact h.silence,
    by rw [hpeer, hparams]; exact h.named, fun hne i => ?_, fun i hc => ?_, by rw [hload, hmode, hact]; exact h.load⟩
  · rw [hentry]
    exact h.entries (hpeer ▸ hne) i
  · rw [disagree_congr hsections (by rw [hpeer]) (hentry i) (by rw [sect_congr hrecords]) (by rw [sect_congr hrecords])]
    exact h.compare i (hcompare i ▸ hc)

/-- In CONFIG, where the peer is ABSENT with no timer running, the sections and the tables may change. -/
theorem PeerSound.of_config {s t : State} (h : PeerSound s) (hm : s.tables.mode = .config) (hp : t.peer = s.peer)
    (hl : t.tables.load ≠ none → t.tables.mode = .config ∧ t.requests.activation = none) : PeerSound t := by
  have ha : s.peer.state = .absent := h.config hm
  have hsilence : s.peer.silence = none := by
    by_contra hc
    exact h.silence.1 hc ha
  refine peerSound_of_reset ⟨hp ▸ ha, hp ▸ hsilence, fun i => ?_, fun i => ?_⟩ hl
  · simpa only [State.peerEntry, hp] using h.entries (by simp [ha]) i
  · simpa only [State.compareTimer, hp] using h.compareTimer_of_absent ha i

/-! ## Evaluation (Table 5-3) -/

theorem PeerHeld.evaluated {l : List SectionIndex} {s t : State} (h : PeerHeld s) (he : Evaluates l s t)
    (ht : t.tables = s.tables) (ha : t.requests.activation = s.requests.activation) : PeerHeld t := by
  refine ⟨by rw [ht, he.state]; exact h.config, by rw [he.silence, he.state]; exact h.silence,
    by rw [ht, he.state]; exact h.named, ?_, by rw [ht, ha]; exact h.load⟩
  rw [he.state]
  intro hne i
  simpa only [State.peerEntry, he.entries] using h.entries hne i

/-- R105: what is evaluated has a timer only in disagreement, and what is not keeps its timer. -/
theorem PeerHeld.peerSound_of_evaluates {l : List SectionIndex} {s t : State} (h : PeerHeld s) (he : Evaluates l s t)
    (ht : t.tables = s.tables) (ha : t.requests.activation = s.requests.activation)
    (hrest : ∀ i, i ∉ l ∨ s.tables.params = none → s.compareTimer i ≠ none → t.disagree i = true) : PeerSound t := by
  refine (peerSound_iff t).2 ⟨h.evaluated he ht ha, fun i hc => ?_⟩
  rw [he.compare i] at hc
  split at hc
  · split at hc
    · assumption
    · exact absurd rfl hc
  · rename_i hout
    exact hrest i (by tauto) hc

/-- R69, R105: a section record written and told about leaves the comparator sound. -/
theorem commitSect_peerSound {i : SectionIndex} {r : SectionRecord} {s : State} (h : PeerSound s) :
    PeerSound (s.commitSect i r) := by
  have hheld := ((peerSound_iff s).1 h).1
  refine hheld.peerSound_of_evaluates (commitSect_told s i r).evaluates (by simp) (by simp) fun j hj hc => ?_
  have hdis := h.compare j hc
  have hparams : s.tables.params ≠ none := h.named (by simp [present_of_disagree hdis])
  have hsame : ((s.commitSect i r).sect j).state = (s.sect j).state
      ∧ ((s.commitSect i r).sect j).count = (s.sect j).count := by
    have hout := hj.resolve_right hparams
    rw [changed_singleton] at hout
    by_cases hji : j = i
    · subst hji
      by_contra hne
      rw [if_neg hne] at hout
      simp at hout
    · rw [commitSect_sect, if_neg hji]
      exact ⟨rfl, rfl⟩
  rwa [disagree_congr (by simp) (by simp) (by simp [State.peerEntry]) hsame.1 hsame.2]

theorem peerSound_writes : Writes PeerSound := by
  constructor
  case commit => exact fun _ _ _ => commitSect_peerSound
  case service =>
    intro s hm h
    have hload : s.tables.load = none := by
      by_contra hl
      have := (h.load hl).1
      rw [hm] at this
      cases this
    refine ⟨fun hc => ?_, h.silence, h.named, h.entries, h.compare, fun hl => absurd hload hl⟩
    cases hc
  all_goals
    intros
    exact PeerSound.congr ‹PeerSound _› (by simp)

/-! ## The partner's reports (5.1 to 5.3) -/

/-- R102, R105: an entry is taken of a PRESENT peer, and its section evaluated. -/
theorem takeEntry_peerSound {e : ReportEntry} {s : State} (hpresent : s.peer.state = .present) (h : PeerSound s) :
    PeerSound (takeEntry s e) := by
  unfold takeEntry
  split
  · have hheld : PeerHeld (s.setPeerEntry e.index
        (some { state := e.state, count := e.count, serial := e.serial, arrival := s.now })) :=
      ⟨by simpa using h.config, by simpa using h.silence, by simpa using h.named, by simp [hpresent], by simpa using h.load⟩
    have hev := hheld.peerSound_of_evaluates (evaluate_evaluates e.index _) (by simp) (by simp) fun i hi hc => ?_
    · dsimp only
      split
      · exact peerSound_writes.peerNotice _ _ hev
      · exact hev
    · have hparams : s.tables.params ≠ none := h.named (by simp [hpresent])
      have hne : i ≠ e.index := by simpa [hparams] using hi
      have hdis : s.disagree i = true := h.compare i (by simpa [State.compareTimer] using hc)
      rwa [disagree_congr (s := s) (by simp) (by simp)]
      · simpa [State.peerEntry, hne] using setPeerEntry_peerEntry s e.index i
          (some { state := e.state, count := e.count, serial := e.serial, arrival := s.now })
      · simp [State.sect]
      · simp [State.sect]
  · exact h

theorem foldl_takeEntry_peerSound (l : List ReportEntry) {s : State} (hpresent : s.peer.state = .present)
    (h : PeerSound s) : PeerSound (l.foldl takeEntry s) := by
  induction l generalizing s with
  | nil => exact h
  | cons e l ih => exact ih (by simpa using hpresent) (takeEntry_peerSound hpresent h)

/-- R98, R99: whatever version a report carries, the silence timer runs and the peer is PRESENT or MISMATCHED. -/
theorem checkVersion_peerSound {v : BitVec 16} {s : State} (hmode : s.tables.mode ≠ .config)
    (hparams : s.tables.params ≠ none) (h : PeerSound s) : PeerSound (checkVersion v (restartSilence s)) := by
  obtain ⟨r, hr⟩ := Option.ne_none_iff_exists'.1 hparams
  have hsil : (restartSilence s).peer.silence = some (s.startTimer (r.silenceLimit * 100)) := by
    simp [restartSilence, hr]
  have hcompare : ∀ i, (restartSilence s).compareTimer i = s.compareTimer i := fun i => by simp [State.compareTimer]
  have hentry : ∀ i, (restartSilence s).peerEntry i = s.peerEntry i := fun i => by simp [State.peerEntry]
  have hsect : ∀ i, (restartSilence s).sect i = s.sect i := fun i => sect_congr (by simp) i
  unfold checkVersion
  split
  · refine ⟨fun hc => absurd (by simpa using hc) hmode, by simp [hsil], by simpa using hparams, by simp,
      fun i hc => ?_, by simpa using h.load⟩
    have hdis : s.disagree i = true := h.compare i (hcompare i ▸ hc)
    refine Eq.trans ?_ hdis
    apply disagree_congr
    · simp
    · exact (present_of_disagree hdis).symm
    · exact hentry i
    · exact congrArg SectionRecord.state (hsect i)
    · exact congrArg SectionRecord.count (hsect i)
  · split
    · rename_i hmis
      have hmis' : s.peer.state = .mismatched := by simpa using hmis
      refine ⟨by simpa using h.config, by simp [hsil, hmis'], fun _ => by simpa using hparams, fun hne i => ?_, fun i hc => ?_,
        by simpa using h.load⟩
      · rw [hentry]
        exact h.entries (by simp [hmis']) i
      · rw [disagree_congr (s := s) (by simp) (by simp) (hentry i) (by rw [hsect]) (by rw [hsect])]
        exact h.compare i (hcompare i ▸ hc)
    · refine ⟨fun hc => absurd (by simpa using hc) hmode, by simp [hsil]; simp [leavePeer],
        fun _ => by simpa using hparams,
        fun _ i => by simp [State.peerEntry, leavePeer], fun i hc => ?_, by simpa using h.load⟩
      exact absurd (by simp [State.compareTimer, leavePeer]) hc

theorem snoopReport_peerSound {t : Telegram} {s : State} (h : PeerSound s) : PeerSound (snoopReport t s) := by
  unfold snoopReport
  split
  · exact h
  rename_i hsnoop
  push Not at hsnoop
  obtain ⟨haddress, -, -, hmode⟩ := hsnoop
  have hparams : s.tables.params ≠ none := fun hn => haddress (by simp [State.peerAddress, hn])
  split
  · exact h
  unfold takeReport
  dsimp only
  have hchecked := fun v => checkVersion_peerSound (v := v) hmode hparams h
  split
  · exact foldl_takeEntry_peerSound _ ‹_› (hchecked _)
  · exact hchecked _

/-! ## Every action -/

theorem setCompare_none_peerSound {i : SectionIndex} {s : State} (h : PeerSound s) : PeerSound (s.setCompare i none) := by
  refine ⟨by simpa using h.config, by simpa using h.silence, by simpa using h.named, ?_, fun j hc => ?_,
    by simpa using h.load⟩
  · simpa [State.peerEntry] using h.entries
  · rw [setCompare_compareTimer] at hc
    split at hc
    · exact absurd rfl hc
    · rw [disagree_congr (s := s) (by simp) (by simp) (by simp [State.peerEntry]) (by simp [State.sect]) (by simp [State.sect])]
      exact h.compare j hc

theorem warmRestart_peerSound (s : State) : PeerSound (warmRestart s) :=
  peerSound_of_reset (warmRestart_spec s).peer (fun hl => absurd (warmRestart_load s) hl)

/-- The same state with another load, where the load asks for CONFIG with no activation in flight. -/
theorem PeerSound.setLoad {s : State} (h : PeerSound s) {l : Option Load}
    (hl : l ≠ none → s.tables.mode = .config ∧ s.requests.activation = none) : PeerSound (s.setLoad l) :=
  ⟨h.config, h.silence, h.named, h.entries, h.compare, hl⟩

theorem endActivation_peerSound {a : Activation} {s : State} (ha : s.requests.activation = some a) (h : PeerSound s) :
    PeerSound (endActivation a s) := by
  have hload : s.tables.load = none := by
    by_contra hl
    have := (h.load hl).2
    rw [ha] at this
    cases this
  unfold endActivation
  split
  · exact ⟨h.config, h.silence, h.named, h.entries, h.compare, fun hl => absurd hload hl⟩
  · refine peerSound_of_reset (peerReset_spec (u := s) (by simp [activateTables_eq]; rfl)) fun hl => ?_
    exact absurd (by simp [hload]) hl

theorem peerSound_kept : Kept PeerSound := by
  constructor
  case powerOn =>
    exact fun pins s _ => peerSound_of_reset (peerReset_spec (u := s) rfl) (fun hl => absurd rfl hl)
  case warmRestart => exact fun s _ => warmRestart_peerSound s
  case assertPwron => exact fun s h => ⟨h.config, h.silence, h.named, h.entries, h.compare, fun hl => absurd rfl hl⟩
  case snoopReport => exact fun _ _ => snoopReport_peerSound
  case restore => exact fun _ _ _ _ _ _ _ => commitSect_peerSound
  case enterConfig =>
    exact fun s _ ha _ => peerSound_of_reset (peerReset_spec (u := s) rfl)
      fun _ => ⟨by simp [enterConfig_eq], by simpa using ha⟩
  case openLoad => exact fun _ _ _ s hm _ ha _ h => h.setLoad fun _ => ⟨hm, ha⟩
  case keepLoad => exact fun l s hl h => h.setLoad fun _ => h.load (by simp [hl])
  case dropLoad => exact fun s h => h.setLoad fun hn => absurd rfl hn
  case stage => exact fun l ps s hl _ _ h => h.setLoad fun _ => h.load (by simp [hl])
  case closeLoad =>
    intro l s hl _ h
    obtain ⟨hmode, hact⟩ := h.load (by simp [hl])
    exact h.of_config hmode (by simp) fun _ => ⟨by simpa using hmode, by simpa using hact⟩
  case beginActivation =>
    exact fun a s _ hl _ _ h => ⟨h.config, h.silence, h.named, h.entries, h.compare, fun hn => absurd hl hn⟩
  case applyRecord => exact fun r s _ h => peerSound_writes.applyRecord r _ (peerSound_writes.taken s h)
  case takeRequest => exact fun q s _ => peerSound_writes.takeRequest q s
  case supervision => exact fun p s _ => peerSound_writes.supervision p s
  case startLimit => exact fun s hd => peerSound_writes.startLimit s (by simp [State.startLimitDue] at hd; exact hd.1)
  case settle => exact fun _ _ _ => commitSect_peerSound
  case compare => exact fun i s _ h => peerSound_writes.compareExpired (fun _ _ => setCompare_none_peerSound) i s h
  case transmissionEnd =>
    exact fun t c s h => transmissionEnd_induction (h.congr (by simp)) (h.congr (by simp))
      (fun u _ => warmRestart_peerSound u) c
  case silence => exact fun s h => peerSound_of_reset (peerReset_spec (u := s) rfl) h.load
  case activationEnd => exact fun a s => endActivation_peerSound
  all_goals
    intros
    exact PeerSound.congr ‹PeerSound _› (by simp)

/-- Settles O58: every action keeps the Peer Comparator sound, and the arbiter does not touch it. -/
theorem peerStaysSound : Obligations.PeerStaysSound :=
  peerSound_kept.step fun _ h => h.congr (by simp)

end Sys2Proof.Machine
end

section
/-! PROOFS. The point records stay sound (chapters 1 and 2). Soundness speaks of one record and its table entry alone, so it is
shown record by record: for an entry into FAULTED, a record under reset, and the steps of a HEALTHY and a FAULTED point. -/

namespace Sys2Proof.Machine

/-! ## One record -/

/-- A point record sound for the table entry its index has, if any (`PointSound` of the state, said of the record). -/
structure PointRecord.Sound (e : Option PointEntry) (r : PointRecord) : Prop where
  configured : e ≠ none ↔ r.status ≠ .unused
  initial : r.status = .unused ∨ r.status = .inactive ∨ r.status = .starting → r = PointRecord.initial r.status
  idle : r.status ≠ .healthy → r.phase = .idle
  lead : r.lead ≠ none ↔ r.phase ≠ .idle
  cause : r.cause ≠ .none ↔ r.status = .faulted
  run : r.status ≠ .faulted → r.run = 0
  supervised : r.status = .healthy ∨ r.status = .faulted → r.supervision ≠ none
  reference : r.status = .healthy → r.seqRef ≠ none
  speed : r.lastSpeed ≤ 4000
  suspect : ∀ x, e = some x → r.suspect < x.suspectLimit ∨ r.suspect = 0
  recovery : ∀ x, e = some x → r.run < x.recoveryCount ∨ r.run = 0

theorem pointConfigured_iff (s : State) (p : PointIndex) : s.pointConfigured p = true ↔ s.pointEntry p ≠ none := by
  simp [State.pointConfigured, State.pointEntry]

theorem pointSound_iff (s : State) (p : PointIndex) : PointSound s p ↔ (s.point p).Sound (s.pointEntry p) := by
  constructor
  · rintro ⟨configured, initial, idle, lead, cause, run, supervised, reference, speed, suspect, recovery⟩
    exact ⟨(pointConfigured_iff s p).symm.trans configured, initial, idle, lead, cause, run, supervised, reference,
      speed, suspect, recovery⟩
  · rintro ⟨configured, initial, idle, lead, cause, run, supervised, reference, speed, suspect, recovery⟩
    exact ⟨(pointConfigured_iff s p).trans configured, initial, idle, lead, cause, run, supervised, reference,
      speed, suspect, recovery⟩

section
variable {e : Option PointEntry} {r : PointRecord}

/-- R2: an index takes the status of an event of R2 exactly while it has an entry. -/
theorem PointRecord.initial_sound {st : PointStatus} (hst : st = .inactive ∨ st = .starting) :
    (PointRecord.initial (if e.isSome then st else .unused)).Sound e := by
  cases e <;> rcases hst with rfl | rfl <;> constructor <;> simp [PointRecord.initial]

/-- R13: an entry into FAULTED keeps last speed and suspect counter and makes the rest what FAULTED asks for. -/
theorem PointRecord.Sound.enterFaulted (h : r.Sound e) (hu : r.status ≠ .unused) {c : FaultCause} (hc : c ≠ .none)
    (f : PointEntry → Timer) : (r.enterFaulted c (e.map f)).Sound e := by
  have he : e ≠ none := h.configured.2 hu
  constructor <;> simp [PointRecord.enterFaulted, he, hc, h.speed]
  exact h.suspect

/-- R10, R20, R22, R30, R38: what a HEALTHY record needs. -/
theorem PointRecord.sound_of_healthy (hst : r.status = .healthy) (he : e ≠ none) (hcause : r.cause = .none)
    (hrun : r.run = 0) (hsup : r.supervision ≠ none) (href : r.seqRef ≠ none) (hlead : r.lead ≠ none ↔ r.phase ≠ .idle)
    (hspeed : r.lastSpeed ≤ 4000) (hsus : ∀ x, e = some x → r.suspect < x.suspectLimit ∨ r.suspect = 0) : r.Sound e :=
  ⟨by simp [hst, he], by simp [hst], fun hn => absurd hst hn, hlead, by simp [hst, hcause], fun _ => hrun,
    fun _ => hsup, fun _ => href, hspeed, hsus, fun _ _ => .inr hrun⟩

/-- R22: a step of the phase machine leaves a HEALTHY record sound when lead, speed and suspect counter stay so. -/
theorem PointRecord.Sound.stepped (h : r.Sound e) (hst : r.status = .healthy) {r' : PointRecord}
    (hsame : r'.status = r.status ∧ r'.cause = r.cause ∧ r'.run = r.run ∧ r'.supervision = r.supervision
      ∧ (r.seqRef ≠ none → r'.seqRef ≠ none))
    (hlead : r'.lead ≠ none ↔ r'.phase ≠ .idle) (hspeed : r'.lastSpeed ≤ 4000)
    (hsus : ∀ x, e = some x → r'.suspect < x.suspectLimit ∨ r'.suspect = 0) : r'.Sound e := by
  obtain ⟨hstatus, hcause, hrun, hsup, href⟩ := hsame
  have hfaulted : r.status ≠ .faulted := by simp [hst]
  refine PointRecord.sound_of_healthy (hstatus.trans hst) (h.configured.2 (by simp [hst])) ?_ (hrun.trans (h.run hfaulted))
    (hsup ▸ h.supervised (.inl hst)) (href (h.reference hst)) hlead hspeed hsus
  rw [hcause]
  by_contra hc
  exact hfaulted (h.cause.1 hc)

/-- R5, R15: the supervision timer of a supervised point restarts. -/
theorem PointRecord.Sound.resupervised (h : r.Sound e) (hst : r.status = .healthy ∨ r.status = .faulted) {m : Option Timer}
    (hm : m ≠ none) : ({ r with supervision := m } : PointRecord).Sound e := by
  refine ⟨h.configured, fun hi => ?_, h.idle, h.lead, h.cause, h.run, fun _ => hm, h.reference, h.speed, h.suspect,
    h.recovery⟩
  rcases hst with hs | hs <;> simp [hs] at hi

/-- R11, R15: a FAULTED record with another run below the recovery count and another reference. -/
theorem PointRecord.Sound.ran (h : r.Sound e) (hst : r.status = .faulted) {n : Nat} {q : Option Byte}
    (hn : ∀ x, e = some x → n < x.recoveryCount ∨ n = 0) :
    ({ r with run := n, seqRef := q } : PointRecord).Sound e :=
  ⟨h.configured, by simp [hst], h.idle, h.lead, h.cause, by simp [hst], h.supervised, by simp [hst], h.speed, h.suspect, hn⟩

/-- R11: the record a FAULTED point takes advances, completes or resets its run. -/
theorem PointRecord.Sound.recover {x : PointEntry} (h : r.Sound (some x)) (hst : r.status = .faulted) (v : EventRecord) :
    (r.recover v x.recoveryCount).Sound (some x) := by
  have hphase : r.phase = .idle := h.idle (by simp [hst])
  unfold PointRecord.recover
  split
  · split
    · refine PointRecord.sound_of_healthy rfl (by simp) rfl rfl (h.supervised (.inr hst)) (by simp) ?_ h.speed
        fun _ _ => .inr rfl
      simpa [hphase] using h.lead
    · exact h.ran hst fun y hy => by cases hy; exact .inl (by omega)
  · exact h.ran hst fun _ _ => .inr rfl

/-- R41, R163: a suspect counter set to 0. -/
theorem PointRecord.Sound.cleared (h : r.Sound e) : ({ r with suspect := 0 } : PointRecord).Sound e := by
  refine ⟨h.configured, fun hi => ?_, h.idle, h.lead, h.cause, h.run, h.supervised, h.reference, h.speed,
    fun _ _ => .inr rfl, h.recovery⟩
  have hinit := h.initial hi
  simp only
  rw [hinit]
  rfl

end

/-! ## The records of a state -/

/-- The requests the Discriminator raises (R24, R40). -/
def RequestSound (x : Option FaultRequest) : Prop := ∀ q, x = some q → q.cause = .skip ∨ q.cause = .suspect

theorem pointsSound_iff (s : State) :
    PointsSound s ↔ (∀ p, (s.point p).Sound (s.pointEntry p)) ∧ RequestSound s.points.request :=
  ⟨fun h => ⟨fun p => (pointSound_iff s p).1 (h.records p), h.request⟩,
    fun h => ⟨fun p => (pointSound_iff s p).2 (h.1 p), h.2⟩⟩

section
variable {s t : State} {p : PointIndex}

theorem PointsSound.record (h : PointsSound s) (p : PointIndex) : (s.point p).Sound (s.pointEntry p) :=
  ((pointsSound_iff s).1 h).1 p

/-- Soundness reads the records, the points table and the request. -/
theorem PointsSound.congr (h : PointsSound s)
    (ht : t.points.records = s.points.records ∧ t.tables.points = s.tables.points ∧ t.points.request = s.points.request) :
    PointsSound t := by
  obtain ⟨hrecords, htable, hrequest⟩ := ht
  refine (pointsSound_iff t).2 ⟨fun p => ?_, hrequest ▸ h.request⟩
  rw [point_congr hrecords, pointEntry_congr htable]
  exact h.record p

theorem PointsSound.withRequest (h : PointsSound s) {x : Option FaultRequest} (hx : RequestSound x) :
    PointsSound { s with points := { s.points with request := x } } :=
  (pointsSound_iff _).2 ⟨h.record, hx⟩

theorem PointsSound.setPoint (h : PointsSound s) {r : PointRecord} (hr : r.Sound (s.pointEntry p)) :
    PointsSound (s.setPoint p r) := by
  refine (pointsSound_iff _).2 ⟨fun q => ?_, h.request⟩
  rw [setPoint_point, pointEntry_congr (s := s) (by simp)]
  split
  · rename_i hq
    exact hq ▸ hr
  · exact h.record q

theorem PointsSound.enterFaulted (h : PointsSound s) (hu : (s.point p).status ≠ .unused) {c : FaultCause}
    (hc : c ≠ .none) : PointsSound (enterFaulted p c s) := by
  have hset : PointsSound (s.setPoint p ((s.point p).enterFaulted c (s.supervisionTimer p))) :=
    h.setPoint (by rw [supervisionTimer_eq]; exact (h.record p).enterFaulted hu hc _)
  exact hset.congr (by simp [Machine.enterFaulted])

/-- R15: a point in use has an entry to time its supervision by. -/
theorem PointsSound.supervisionTimer_ne_none (h : PointsSound s) (hu : (s.point p).status ≠ .unused) :
    s.supervisionTimer p ≠ none := by
  rw [supervisionTimer_eq]
  simpa using (h.record p).configured.2 hu

/-- R2: the records after an event of R2, for whatever table the event leaves. -/
theorem pointsSound_of_reset {st : PointStatus} (hst : st = .inactive ∨ st = .starting)
    (hp : ∀ p, t.point p = PointRecord.initial (if t.pointConfigured p then st else .unused))
    (hr : t.points.request = none) : PointsSound t := by
  refine (pointsSound_iff t).2 ⟨fun p => ?_, by simp [RequestSound, hr]⟩
  have hcfg : t.pointConfigured p = (t.pointEntry p).isSome := by
    rw [Bool.eq_iff_iff, pointConfigured_iff, Option.isSome_iff_ne_none]
  rw [hp, hcfg]
  exact PointRecord.initial_sound hst

theorem pointConfigured_congr (h : t.tables.points = s.tables.points) (p : PointIndex) :
    t.pointConfigured p = s.pointConfigured p := by
  simp only [State.pointConfigured, h]

theorem resetPoints_point (st : PointStatus) (s : State) (p : PointIndex) :
    (resetPoints st s).point p = PointRecord.initial (if s.pointConfigured p then st else .unused) := by
  simp [State.point, resetPoints]

/-- A state whose points are those of a reset under the same table. -/
theorem pointsSound_of_resetPoints {st : PointStatus} (hst : st = .inactive ∨ st = .starting)
    (hp : t.points = (resetPoints st s).points) (ht : t.tables.points = s.tables.points) : PointsSound t := by
  refine pointsSound_of_reset hst (fun p => ?_) (by rw [hp]; rfl)
  rw [point_congr (s := resetPoints st s) (by rw [hp]), resetPoints_point, pointConfigured_congr ht]

end

/-! ## The phase machine (2.2 to 2.6) -/

/-- Table 2-4: only the cells that leave IDLE start from it, and only those that reach it end there. -/
theorem phaseCell_phases (x : Phase) (a b : Bool) :
    (∀ y, phaseCell x a b = .move y → x ≠ .idle ∧ y ≠ .idle)
      ∧ (∀ y, phaseCell x a b = .leaveIdle y → y ≠ .idle)
      ∧ (∀ y, phaseCell x a b = .retake y → x ≠ .idle ∧ y ≠ .idle)
      ∧ ∀ y, phaseCell x a b = .measure y → x ≠ .idle ∧ y ≠ .idle := by
  cases x <;> cases a <;> cases b <;> simp [phaseCell]

theorem speedAfter_le {r : EventRecord} {s : State} (h : (s.point r.point).lastSpeed ≤ 4000) : s.speedAfter r ≤ 4000 := by
  unfold State.speedAfter
  split
  · exact measureSpeed_le _ _ _ _
  · exact h

theorem announcePass_point (p q : PointIndex) (d : Direction) (s : State) : (announcePass p d s).point q = s.point q :=
  point_congr (by simp) q

/-- R37, R38: a pass judged leaves the counter below the limit, or at 0 with FAULTED(SUSPECT) requested. -/
theorem judge_pointsSound {p : PointIndex} {s : State} (hst : (s.point p).status = .healthy) (h : PointsSound s) :
    PointsSound (judge p s) := by
  have hrec := h.record p
  unfold judge
  split
  · exact h
  · rename_i e he
    dsimp only
    split
    · exact (h.setPoint hrec.cleared).withRequest (by rintro q ⟨⟩; exact .inr rfl)
    · rename_i hlim
      refine h.setPoint (hrec.stepped hst (by simp) hrec.lead hrec.speed fun x hx => ?_)
      cases he.symm.trans hx
      have hsus := hrec.suspect e he
      simp only [judgedSuspect] at hlim ⊢
      split at hlim <;> rename_i hfast
      · rw [if_pos hfast]
        exact .inl (Nat.lt_of_not_le fun hle => hlim ⟨hfast, hle⟩)
      · rw [if_neg hfast]
        omega

theorem phaseStep_pointsSound {r : EventRecord} {s : State} (hst : (s.point r.point).status = .healthy)
    (h : PointsSound s) : PointsSound (phaseStep r s) := by
  have hrec := h.record r.point
  obtain ⟨hmove, hleave, hretake, hmeasure⟩ := phaseCell_phases (s.point r.point).phase r.s1 r.s2
  unfold phaseStep
  dsimp only
  split
  case h_1 => exact h
  case h_2 y hy =>
    obtain ⟨hx, hy⟩ := hmove y hy
    exact h.setPoint (hrec.stepped hst (by simp) (by simpa [hy] using hrec.lead.2 hx) hrec.speed hrec.suspect)
  case h_3 y hy =>
    have hset := h.setPoint (p := r.point) (r := { s.point r.point with phase := y, lead := some r.lead })
      (hrec.stepped hst (by simp) (by simpa using hleave y hy) hrec.speed hrec.suspect)
    exact hset.congr (by simp)
  case h_4 y hy => exact h.setPoint (hrec.stepped hst (by simp) (by simpa using (hretake y hy).2) hrec.speed hrec.suspect)
  case h_5 y hy =>
    obtain ⟨hx, hy⟩ := hmeasure y hy
    exact h.setPoint
      (hrec.stepped hst (by simp) (by simpa [hy] using hrec.lead.2 hx) (speedAfter_le hrec.speed) hrec.suspect)
  case h_6 =>
    have hset := h.setPoint (p := r.point) (r := { s.point r.point with phase := .idle, lead := none })
      (hrec.stepped hst (by simp) (by simp) hrec.speed hrec.suspect)
    exact hset.congr (by simp)
  case h_7 d _ =>
    have hset := h.setPoint (p := r.point) (r := { s.point r.point with phase := .idle, lead := none, lastDirection := some d })
      (hrec.stepped hst (by simp) (by simp) hrec.speed hrec.suspect)
    refine judge_pointsSound ?_ (hset.congr (by simp))
    rw [announcePass_point]
    simpa using hst
  case h_8 => exact h.withRequest (by rintro q ⟨⟩; exact .inl rfl)

/-! ## Records applied (1.6 to 1.9) -/

/-- Table 1-6: the causes a sequence check can give. -/
theorem judgeSequence_fault {q : Option Byte} {x : Byte} {c : FaultCause} (h : judgeSequence q x = .fault c) :
    c = .headRestart ∨ c = .gap := by
  unfold judgeSequence at h
  split at h
  · cases h
  split at h
  · cases h
  split at h
  · cases h
    exact .inl rfl
  · cases h
    exact .inr rfl

theorem applyHealthy_pointsSound {r : EventRecord} {s : State} (hst : (s.point r.point).status = .healthy)
    (h : PointsSound s) : PointsSound (applyHealthy r s) := by
  have hrec := h.record r.point
  unfold applyHealthy
  split
  · exact h
  · rename_i c hc
    exact h.enterFaulted (by simp [hst]) (by rcases judgeSequence_fault hc with rfl | rfl <;> simp)
  · have hset := h.setPoint (p := r.point) (r := { s.point r.point with seqRef := some r.seq })
      (hrec.stepped hst (by simp) hrec.lead hrec.speed hrec.suspect)
    dsimp only
    split
    · exact hset.enterFaulted (by simp [hst]) (by simp)
    · exact phaseStep_pointsSound (by simpa using hst) hset

theorem applyStarting_pointsSound {r : EventRecord} {s : State} (hst : (s.point r.point).status = .starting)
    (h : PointsSound s) : PointsSound (applyStarting r s) := by
  have hrec := h.record r.point
  have hu : (s.point r.point).status ≠ .unused := by simp [hst]
  have hfault : ∀ c, c ≠ .none → PointsSound (reportDeparture (enterFaulted r.point c s)) :=
    fun c hc => (h.enterFaulted hu hc).congr (by simp)
  unfold applyStarting
  split
  · exact hfault _ (by simp)
  split
  · exact hfault _ (by simp)
  · have hinit := hrec.initial (.inr (.inr hst))
    have hset : PointsSound (s.setPoint r.point { s.point r.point with
        status := .healthy, seqRef := some r.seq, supervision := s.supervisionTimer r.point }) := by
      refine h.setPoint (PointRecord.sound_of_healthy rfl (hrec.configured.2 hu) ?_ (hrec.run (by simp [hst]))
        (h.supervisionTimer_ne_none hu) (by simp) hrec.lead hrec.speed hrec.suspect)
      simp only
      rw [hinit]
      rfl
    exact hset.congr (by simp)

theorem applyRecord_pointsSound {r : EventRecord} {s : State} (h : PointsSound s) : PointsSound (applyRecord r s) := by
  unfold applyRecord
  split
  · exact applyHealthy_pointsSound ‹_› h
  · exact applyStarting_pointsSound ‹_› h
  · rename_i hst
    unfold applyFaulted
    split
    · exact h
    · rename_i e he
      exact h.setPoint (he ▸ (he ▸ h.record r.point).recover hst r)
  · exact h
  · exact h

/-! ## Every action -/

theorem takeRequest_pointsSound {q : FaultRequest} {s : State} (hq : s.points.request = some q) (h : PointsSound s) :
    PointsSound (takeRequest q s) := by
  have hcause : q.cause ≠ .none := by rcases h.request q hq with e | e <;> simp [e]
  have hnone : PointsSound { s with points := { s.points with request := none } } := h.withRequest (by simp [RequestSound])
  unfold takeRequest
  dsimp only
  split
  · rename_i hst
    exact hnone.enterFaulted (by rw [hst]; decide) hcause
  · exact hnone

theorem supervisionExpired_pointsSound {p : PointIndex} {s : State} (hd : s.supervisionDue p = true) (h : PointsSound s) :
    PointsSound (supervisionExpired p s) := by
  have hrec := h.record p
  have hst : (s.point p).status = .healthy ∨ (s.point p).status = .faulted := by
    simp only [State.supervisionDue, Bool.and_eq_true, Bool.or_eq_true, decide_eq_true_eq] at hd
    exact hd.1
  unfold supervisionExpired
  split
  · rename_i hh
    exact h.enterFaulted (by simp [hh]) (by simp)
  · rename_i hh
    have hf := hst.resolve_left hh
    exact h.setPoint ((hrec.resupervised hst (h.supervisionTimer_ne_none (by simp [hf]))).ran (by exact hf) fun _ _ => .inr rfl)

theorem restartSupervision_pointsSound {p : PointIndex} {s : State} (h : PointsSound s) :
    PointsSound (restartSupervision p s) := by
  unfold restartSupervision
  split
  · rename_i hst
    exact h.setPoint ((h.record p).resupervised (.inl hst) (h.supervisionTimer_ne_none (by simp [hst])))
  · rename_i hst
    exact h.setPoint ((h.record p).resupervised (.inr hst) (h.supervisionTimer_ne_none (by simp [hst])))
  · exact h

theorem snoopHead_pointsSound {t : Telegram} {s : State} (h : PointsSound s) : PointsSound (snoopHead t s) := by
  unfold snoopHead
  repeat' split
  · exact h
  · rename_i p _ _
    exact (restartSupervision_pointsSound (p := p) h).congr (by simp)
  · exact h

theorem foldl_timeoutPoint_pointsSound (l : List PointIndex) {s : State} (h : PointsSound s) :
    PointsSound (l.foldl timeoutPoint s) := by
  induction l generalizing s with
  | nil => exact h
  | cons p l ih =>
    refine ih ?_
    unfold timeoutPoint
    split
    · rename_i hst
      exact h.enterFaulted (by simp [hst]) (by simp)
    · exact h

theorem warmRestart_pointsSound (s : State) : PointsSound (warmRestart s) := by
  obtain ⟨hpoints, -, -, hrequest⟩ := (warmRestart_spec s).points
  refine pointsSound_of_reset (st := if s.tables.activated then .starting else .inactive)
    (by cases s.tables.activated <;> simp) (fun p => ?_) hrequest
  rw [hpoints, pointConfigured_congr (s := s) (t := warmRestart s) (by simp)]

theorem closeLoad_pointsSound {x : Staged} {s : State} (h : PointsSound s) : PointsSound (closeLoad x s) := by
  cases x with
  | points es =>
    exact pointsSound_of_resetPoints (s := { s with tables := { s.tables with points := es } }) (.inl rfl) rfl
      (by simp [closeLoad])
  | sections es => exact h.congr (by simp [closeLoad])
  | parameters es => exact h.congr (by simp [closeLoad])

theorem pointsSound_kept : Kept PointsSound := by
  constructor
  case powerOn =>
    intro pins s _
    refine pointsSound_of_reset (.inl rfl) (fun p => ?_) rfl
    simp [powerOn, State.reset, State.point, State.pointConfigured]
  case warmRestart => exact fun s _ => warmRestart_pointsSound s
  case snoopHead => exact fun _ _ => snoopHead_pointsSound
  case clearSuspect => exact fun p s _ h => h.setPoint (h.record p).cleared
  case enterConfig =>
    exact fun s _ _ _ => pointsSound_of_resetPoints (s := sectionsToConfig s.inConfig) (.inl rfl) rfl (by simp)
  case closeLoad => exact fun _ _ _ _ => closeLoad_pointsSound
  case applyRecord => exact fun r s _ h => applyRecord_pointsSound (h.congr (by simp))
  case takeRequest => exact fun _ _ => takeRequest_pointsSound
  case supervision => exact fun _ _ => supervisionExpired_pointsSound
  case startLimit =>
    exact fun s _ h => (foldl_timeoutPoint_pointsSound (List.finRange 48) h).congr (by simp [startLimitExpired])
  case transmissionEnd =>
    exact fun t c s h => transmissionEnd_induction (h.congr (by simp)) (h.congr (by simp))
      (fun u _ => warmRestart_pointsSound u) c
  case activationEnd =>
    intro a s _ h
    unfold endActivation
    split
    · exact h.congr (by simp)
    · exact pointsSound_of_resetPoints (s := buildSideMap (s.inStartUp a.version)) (.inr rfl)
        (by simp [activateTables_eq]) (by simp)
  all_goals
    intros
    exact PointsSound.congr ‹PointsSound _› (by simp)

/-- Settles O56: every action keeps the point records sound, and the arbiter does not touch them. -/
theorem pointsStaySound : Obligations.PointsStaySound :=
  pointsSound_kept.step fun _ h => h.congr (by simp)

end Sys2Proof.Machine
end

section
/-! PROOFS. Validation (R178, Table 10-5): what each check passes and what it finds, the checks in order, and the side map a
valid set of tables gives (R46). -/

namespace Sys2Proof.Machine

/-! ## Configured items -/

section
variable {s : State} {i : SectionIndex} {p : PointIndex} {b : Boundary}

theorem mem_configuredSections : i ∈ s.configuredSections ↔ s.sectionConfigured i = true := by
  simp [State.configuredSections]

theorem mem_configuredPoints : p ∈ s.configuredPoints ↔ s.pointConfigured p = true := by
  simp [State.configuredPoints]

theorem sectionConfigured_iff : s.sectionConfigured i = true ↔ s.sectionEntry i ≠ none := by
  simp [State.sectionConfigured, State.sectionEntry]

/-- R44: only a configured section has boundaries. -/
theorem sectionConfigured_of_mem_boundaries (h : b ∈ s.boundaries i) : s.sectionConfigured i = true := by
  rw [sectionConfigured_iff]
  intro hn
  simp [State.boundaries, hn] at h

theorem pointConfigured_of_entry {e : PointEntry} (h : s.pointEntry p = some e) : s.pointConfigured p = true :=
  (pointConfigured_iff s p).2 (by simp [h])

theorem mem_allBoundaries : (i, b) ∈ s.allBoundaries ↔ b ∈ s.boundaries i := by
  simp only [State.allBoundaries, List.mem_flatMap, List.mem_map, Prod.mk.injEq, mem_configuredSections]
  constructor
  · rintro ⟨j, -, c, hc, rfl, rfl⟩
    exact hc
  · exact fun h => ⟨i, sectionConfigured_of_mem_boundaries h, b, h, rfl, rfl⟩

/-- The boundary entries in scan order, without the sections they belong to. -/
theorem allBoundaries_map_snd (s : State) :
    s.allBoundaries.map Prod.snd = s.configuredSections.flatMap s.boundaries := by
  simp [State.allBoundaries, List.map_flatMap]

theorem sameSide_iff (b c : Boundary) : b.sameSide c = true ↔ b = c := by
  cases b
  cases c
  simp [Boundary.sameSide]

theorem otherSide_iff (b c : Boundary) : b.otherSide c = true ↔ b.opposes c := by
  simp [Boundary.otherSide, Boundary.opposes]

theorem otherSide_eq_false (b c : Boundary) : b.otherSide c = false ↔ ¬b.opposes c := by
  rw [← otherSide_iff, Bool.not_eq_true]

end

/-! ## No two of a list -/

theorem pairwise_sameSide_iff (l : List Boundary) : (l.Pairwise fun y x => y.sameSide x = false) ↔ l.Nodup :=
  List.Pairwise.iff fun y x => by rw [← Bool.not_eq_true, sameSide_iff]

theorem pairwise_otherSide_iff (l : List Boundary) :
    (l.Pairwise fun y x => y.otherSide x = false) ↔ ∀ c ∈ l, ∀ d ∈ l, ¬c.opposes d := by
  have hiff := List.Pairwise.iff (l := l) fun y x => otherSide_eq_false y x
  have : Std.Symm fun y x : Boundary => ¬y.opposes x := ⟨fun c d h hdc => h ⟨hdc.1.symm, hdc.2.symm⟩⟩
  constructor
  · intro h c hc d hd
    exact List.Pairwise.forall_of_forall (fun x _ hxx => hxx.2 rfl) (hiff.1 h) hc hd
  · exact fun h => hiff.2 (List.pairwise_of_forall_mem_list h)

/-! ## The eight checks -/

/-- The index check `n` of Table 10-5 gives when it fails. -/
def State.verdict (s : State) (n : Nat) : Option Byte :=
  match n with
  | 1 => if s.tables.params.isNone then some 255 else none
  | 2 => if s.configuredSections.isEmpty then some 255 else none
  | 3 => s.check3.map fun i => byte i.val
  | 4 => s.check4.map fun p => byte p.val
  | 5 => s.check5.map fun p => byte p.val
  | 6 => s.check6.map fun p => byte p.val
  | 7 => s.check7.map fun p => byte p.val
  | 8 => s.check8.map fun p => byte p.val
  | _ => none

/-- R178: validation gives the code and the index of the first check that fails. -/
theorem validate_eq (s : State) :
    s.validate = (List.finRange 9).findSome? fun n => (s.verdict n.val).map fun x => (byte n.val, x) := by
  have hrange : List.finRange 9 = [0, 1, 2, 3, 4, 5, 6, 7, 8] := by decide
  unfold State.validate
  rw [hrange]
  simp only [List.findSome?_cons, List.findSome?_nil, State.verdict]
  split
  · rfl
  split
  · rfl
  cases s.check3 with
  | some i => rfl
  | none =>
    cases s.check4 with
    | some p => rfl
    | none =>
      cases s.check5 with
      | some p => rfl
      | none =>
        cases s.check6 with
        | some p => rfl
        | none =>
          cases s.check7 with
          | some p => rfl
          | none => cases s.check8 <;> rfl

section
variable {s : State}

theorem check3_none : s.check3 = none ↔ s.passes 3 := by
  simp only [State.check3, State.passes, List.find?_eq_none, List.any_eq_true, mem_configuredSections,
    Bool.not_eq_true', not_exists, not_and, Bool.not_eq_false]
  exact ⟨fun h i b hb => h i (sectionConfigured_of_mem_boundaries hb) b hb, fun h i _ => h i⟩

theorem check3_some {i : SectionIndex} :
    s.check3 = some i ↔ (∃ b ∈ s.boundaries i, s.pointConfigured b.point = false)
      ∧ ∀ j < i, ∀ b ∈ s.boundaries j, s.pointConfigured b.point = true := by
  unfold State.check3
  rw [find_of_sorted _ (configuredSections_sorted s)]
  simp only [List.any_eq_true, mem_configuredSections, Bool.not_eq_true', List.any_eq_false, Bool.not_eq_false]
  constructor
  · rintro ⟨-, hb, hbefore⟩
    exact ⟨hb, fun j hj b hb => hbefore j (sectionConfigured_of_mem_boundaries hb) hj b hb⟩
  · rintro ⟨⟨b, hb, hn⟩, hbefore⟩
    exact ⟨sectionConfigured_of_mem_boundaries hb, ⟨b, hb, hn⟩, fun j _ hj => hbefore j hj⟩

theorem check4_none : s.check4 = none ↔ s.passes 4 := by
  simp only [State.check4, State.passes, Option.map_eq_none_iff, firstAgainstEarlier_none, allBoundaries_map_snd,
    pairwise_sameSide_iff]
  simp

theorem check4_some {p : PointIndex} :
    s.check4 = some p ↔ ∃ earlier b later, s.configuredSections.flatMap s.boundaries = earlier ++ b :: later
      ∧ earlier.Nodup ∧ b ∈ earlier ∧ b.point = p := by
  simp only [State.check4, Option.map_eq_some_iff, firstAgainstEarlier_some, allBoundaries_map_snd,
    pairwise_sameSide_iff, sameSide_iff]
  constructor
  · rintro ⟨b, ⟨earlier, later, hl, hnodup, -, hb⟩, rfl⟩
    exact ⟨earlier, b, later, hl, hnodup, by simpa using hb, rfl⟩
  · rintro ⟨earlier, b, later, hl, hnodup, hb, rfl⟩
    exact ⟨b, ⟨earlier, later, hl, hnodup, by simp, by simpa using hb⟩, rfl⟩

theorem check5_none : s.check5 = none ↔ s.passes 5 := by
  simp only [State.check5, State.passes, List.findSome?_eq_none_iff, Option.map_eq_none_iff,
    firstAgainstEarlier_none, pairwise_otherSide_iff, mem_configuredSections]
  constructor
  · exact fun h i b hb => (h i (sectionConfigured_of_mem_boundaries hb)).2 b hb
  · exact fun h i _ => ⟨by simp, h i⟩

theorem check5_some {p : PointIndex} :
    s.check5 = some p ↔ ∃ i earlier b later, s.boundaries i = earlier ++ b :: later
      ∧ (∀ c ∈ earlier, ∀ d ∈ earlier, ¬c.opposes d) ∧ (∃ c ∈ earlier, c.opposes b)
      ∧ (∀ j < i, ∀ c ∈ s.boundaries j, ∀ d ∈ s.boundaries j, ¬c.opposes d) ∧ b.point = p := by
  unfold State.check5
  rw [findSome_of_sorted _ (configuredSections_sorted s)]
  simp only [Option.map_eq_some_iff, Option.map_eq_none_iff, firstAgainstEarlier_some, firstAgainstEarlier_none,
    pairwise_otherSide_iff, otherSide_iff, mem_configuredSections]
  constructor
  · rintro ⟨i, -, ⟨b, ⟨earlier, later, hl, hearlier, -, hb⟩, rfl⟩, hbefore⟩
    exact ⟨i, earlier, b, later, hl, hearlier, by simpa using hb,
      fun j hj c hc => (hbefore j (sectionConfigured_of_mem_boundaries hc) hj).2 c hc, rfl⟩
  · rintro ⟨i, earlier, b, later, hl, hearlier, hb, hbefore, rfl⟩
    have hmem : b ∈ s.boundaries i := by simp [hl]
    exact ⟨i, sectionConfigured_of_mem_boundaries hmem,
      ⟨b, ⟨earlier, later, hl, hearlier, by simp, by simpa using hb⟩, rfl⟩,
      fun j _ hj => ⟨by simp, hbefore j hj⟩⟩

/-- Some boundary entry names the point. -/
theorem named_iff {p : PointIndex} :
    (s.allBoundaries.any fun ib => decide (ib.2.point = p)) = true ↔ ∃ i, ∃ b ∈ s.boundaries i, b.point = p := by
  simp only [List.any_eq_true, decide_eq_true_eq, Prod.exists, mem_allBoundaries]

theorem check6_none : s.check6 = none ↔ s.passes 6 := by
  simp only [State.check6, State.passes, List.find?_eq_none, Bool.not_eq_true', Bool.not_eq_false, named_iff,
    mem_configuredPoints]

theorem check6_some {p : PointIndex} :
    s.check6 = some p ↔ s.pointConfigured p = true ∧ (∀ i, ∀ b ∈ s.boundaries i, b.point ≠ p)
      ∧ ∀ q < p, s.pointConfigured q = true → ∃ i, ∃ b ∈ s.boundaries i, b.point = q := by
  unfold State.check6
  rw [find_of_sorted _ (configuredPoints_sorted s)]
  simp only [mem_configuredPoints, Bool.not_eq_eq_eq_not, Bool.not_true, Bool.not_false, named_iff]
  rw [← Bool.not_eq_true, named_iff]
  push Not
  exact and_congr_right fun _ => and_congr_right fun _ =>
    ⟨fun h q hq hc => h q hc hq, fun h q hc hq => h q hq hc⟩

/-- A configured point below has the head address. -/
theorem repeated_iff {p : PointIndex} (hp : s.pointConfigured p = true) :
    (s.configuredPoints.any fun q => decide (q < p) && decide (s.headAddress q = s.headAddress p)) = true
      ↔ s.repeatsHead p := by
  obtain ⟨f, hf⟩ := Option.ne_none_iff_exists'.1 ((pointConfigured_iff s p).1 hp)
  simp only [List.any_eq_true, mem_configuredPoints, Bool.and_eq_true, decide_eq_true_eq, State.headAddress,
    State.repeatsHead, hf, Option.map_some, Option.map_eq_some_iff]
  constructor
  · rintro ⟨q, -, hlt, e, he, heq⟩
    exact ⟨q, e, f, hlt, he, rfl, heq⟩
  · rintro ⟨q, e, g, hlt, he, hg, heq⟩
    cases hg
    exact ⟨q, pointConfigured_of_entry he, hlt, e, he, heq⟩

theorem pointConfigured_of_repeatsHead {p : PointIndex} (h : s.repeatsHead p) : s.pointConfigured p = true := by
  obtain ⟨q, e, f, -, -, hf, -⟩ := h
  exact pointConfigured_of_entry hf

theorem check7_none : s.check7 = none ↔ s.passes 7 := by
  simp only [State.check7, State.passes, List.find?_eq_none, mem_configuredPoints]
  exact ⟨fun h p hr => h p (pointConfigured_of_repeatsHead hr) ((repeated_iff (pointConfigured_of_repeatsHead hr)).2 hr),
    fun h p hp hany => h p ((repeated_iff hp).1 hany)⟩

theorem check7_some {p : PointIndex} : s.check7 = some p ↔ s.repeatsHead p ∧ ∀ q < p, ¬s.repeatsHead q := by
  unfold State.check7
  rw [find_of_sorted _ (configuredPoints_sorted s)]
  simp only [mem_configuredPoints, ← Bool.not_eq_true]
  constructor
  · rintro ⟨hp, hany, hbefore⟩
    exact ⟨(repeated_iff hp).1 hany, fun q hq hr => hbefore q (pointConfigured_of_repeatsHead hr) hq
      ((repeated_iff (pointConfigured_of_repeatsHead hr)).2 hr)⟩
  · rintro ⟨hr, hbefore⟩
    have hp := pointConfigured_of_repeatsHead hr
    exact ⟨hp, (repeated_iff hp).2 hr, fun q hq hlt hany => hbefore q hlt ((repeated_iff hq).1 hany)⟩

/-- The head address of a configured point is that of a station, while a parameter record is held. -/
theorem station_iff {p : PointIndex} (hr : s.tables.params ≠ none) :
    (s.stationAddresses.any fun a => decide (s.headAddress p = some a)) = true ↔ s.atStation p := by
  obtain ⟨r, hr⟩ := Option.ne_none_iff_exists'.1 hr
  cases he : s.pointEntry p with
  | none => simp [State.headAddress, State.atStation, he]
  | some e => simp [State.stationAddresses, State.headAddress, State.atStation, he, hr]

theorem pointConfigured_of_atStation {p : PointIndex} (h : s.atStation p) : s.pointConfigured p = true := by
  obtain ⟨e, r, he, -⟩ := h
  exact pointConfigured_of_entry he

theorem check8_none (hr : s.tables.params ≠ none) : s.check8 = none ↔ s.passes 8 := by
  simp only [State.check8, State.passes, List.find?_eq_none, mem_configuredPoints, station_iff hr]
  exact ⟨fun h p hs => h p (pointConfigured_of_atStation hs) hs, fun h p _ => h p⟩

theorem check8_some (hr : s.tables.params ≠ none) {p : PointIndex} :
    s.check8 = some p ↔ s.atStation p ∧ ∀ q < p, ¬s.atStation q := by
  unfold State.check8
  rw [find_of_sorted _ (configuredPoints_sorted s)]
  simp only [mem_configuredPoints, ← Bool.not_eq_true, station_iff hr]
  constructor
  · rintro ⟨-, hs, hbefore⟩
    exact ⟨hs, fun q hq hqs => hbefore q (pointConfigured_of_atStation hqs) hq hqs⟩
  · rintro ⟨hs, hbefore⟩
    exact ⟨pointConfigured_of_atStation hs, hs, fun q _ hq => hbefore q hq⟩

end

/-! ## The verdict (O52) -/

section
variable {s : State} {n : Nat}

/-- A point below a configured one is configured (R1). -/
theorem pointConfigured_of_lt {p q : PointIndex} (hp : s.pointConfigured p = true) (h : q < p) :
    s.pointConfigured q = true := by
  simp only [State.pointConfigured, decide_eq_true_eq] at hp ⊢
  exact (Fin.lt_def.1 h).trans hp

/-- Each check gives no index exactly when it passes. Check 8 reads the parameter record that check 1 asks for. -/
theorem verdict_none (h1 : 1 ≤ n) (h8 : n ≤ 8) (hr : n = 8 → s.tables.params ≠ none) :
    s.verdict n = none ↔ s.passes n := by
  interval_cases n
  · simp [State.verdict, State.passes, Option.isNone_iff_eq_none]
  · simp [State.verdict, State.passes, List.isEmpty_iff]
  · exact Option.map_eq_none_iff.trans check3_none
  · exact Option.map_eq_none_iff.trans check4_none
  · exact Option.map_eq_none_iff.trans check5_none
  · exact Option.map_eq_none_iff.trans check6_none
  · exact Option.map_eq_none_iff.trans check7_none
  · exact Option.map_eq_none_iff.trans (check8_none (hr rfl))

/-- Each check gives the index of the first item that fails it. -/
theorem verdict_some (h1 : 1 ≤ n) (h8 : n ≤ 8) (hr : n = 8 → s.tables.params ≠ none) (x : Byte) :
    s.verdict n = some x ↔ s.failsAt n x := by
  interval_cases n
  · simp [State.verdict, State.failsAt, Option.isNone_iff_eq_none, @eq_comm _ x]
  · simp [State.verdict, State.failsAt, List.isEmpty_iff, @eq_comm _ x]
  · simp only [State.verdict, State.failsAt, Option.map_eq_some_iff, check3_some]
    exact exists_congr fun i => by rw [eq_comm, and_comm]
  · simp only [State.verdict, State.failsAt, Option.map_eq_some_iff, check4_some]
    constructor
    · rintro ⟨p, ⟨earlier, b, later, hl, hnodup, hb, rfl⟩, rfl⟩
      exact ⟨earlier, b, later, hl, hnodup, hb, rfl⟩
    · rintro ⟨earlier, b, later, hl, hnodup, hb, rfl⟩
      exact ⟨_, ⟨earlier, b, later, hl, hnodup, hb, rfl⟩, rfl⟩
  · simp only [State.verdict, State.failsAt, Option.map_eq_some_iff, check5_some]
    constructor
    · rintro ⟨p, ⟨i, earlier, b, later, hl, hearlier, hb, hbefore, rfl⟩, rfl⟩
      exact ⟨i, earlier, b, later, hl, hearlier, hb, hbefore, rfl⟩
    · rintro ⟨i, earlier, b, later, hl, hearlier, hb, hbefore, rfl⟩
      exact ⟨_, ⟨i, earlier, b, later, hl, hearlier, hb, hbefore, rfl⟩, rfl⟩
  · simp only [State.verdict, State.failsAt, Option.map_eq_some_iff, check6_some]
    constructor
    · rintro ⟨p, ⟨hp, hunnamed, hbefore⟩, rfl⟩
      exact ⟨p, rfl, hp, hunnamed, fun q hq => hbefore q hq (pointConfigured_of_lt hp hq)⟩
    · rintro ⟨p, rfl, hp, hunnamed, hbefore⟩
      exact ⟨p, ⟨hp, hunnamed, fun q hq _ => hbefore q hq⟩, rfl⟩
  · simp only [State.verdict, State.failsAt, Option.map_eq_some_iff, check7_some]
    exact exists_congr fun p => by rw [and_comm, @eq_comm _ x]
  · simp only [State.verdict, State.failsAt, Option.map_eq_some_iff, check8_some (hr rfl)]
    exact exists_congr fun p => by rw [and_comm, @eq_comm _ x]

theorem validate_none : s.validate = none ↔ ∀ n, 1 ≤ n → n ≤ 8 → s.passes n := by
  have hscan : s.validate = none ↔ ∀ n : Fin 9, s.verdict n.val = none := by
    simp [validate_eq, List.findSome?_eq_none_iff]
  rw [hscan]
  constructor
  · intro h
    have hr : s.tables.params ≠ none := (verdict_none (n := 1) le_rfl (by decide) (by omega)).1 (h 1)
    exact fun n h1 h8 => (verdict_none h1 h8 fun _ => hr).1 (h ⟨n, by omega⟩)
  · intro h n
    rcases Nat.eq_zero_or_pos n.val with h0 | hpos
    · rw [h0]
      rfl
    · exact (verdict_none hpos (by omega) fun _ => h 1 le_rfl (by decide)).2 (h _ hpos (by omega))

theorem validate_some {code index : Byte} :
    s.validate = some (code, index) ↔
      ∃ n, 1 ≤ n ∧ n ≤ 8 ∧ code = byte n ∧ (∀ m, 1 ≤ m → m < n → s.passes m) ∧ s.failsAt n index := by
  rw [validate_eq, findSome_of_sorted _ (List.pairwise_lt_finRange 9)]
  simp only [List.mem_finRange, true_and, forall_const, Option.map_eq_some_iff, Option.map_eq_none_iff, Prod.mk.injEq]
  constructor
  · rintro ⟨n, ⟨x, hx, hcode, rfl⟩, hbefore⟩
    have hpos : 1 ≤ n.val := by
      by_contra h0
      have hzero : n.val = 0 := by omega
      rw [hzero] at hx
      cases hx
    have hpass : ∀ m, 1 ≤ m → m < n.val → s.passes m := fun m h1 hm =>
      (verdict_none h1 (by omega) (by omega)).1 (hbefore ⟨m, by omega⟩ (Fin.lt_def.2 hm))
    have hr : n.val = 8 → s.tables.params ≠ none := fun h8 => hpass 1 le_rfl (by omega)
    exact ⟨n.val, hpos, by omega, hcode.symm, hpass, (verdict_some hpos (by omega) hr x).1 hx⟩
  · rintro ⟨n, hpos, h8, rfl, hpass, hfail⟩
    have hr : n = 8 → s.tables.params ≠ none := fun h8 => hpass 1 le_rfl (by omega)
    refine ⟨⟨n, by omega⟩, ⟨index, (verdict_some hpos h8 hr index).2 hfail, rfl, rfl⟩, fun m hm => ?_⟩
    rcases Nat.eq_zero_or_pos m.val with h0 | hmpos
    · rw [h0]
      rfl
    · exact (verdict_none hmpos (by omega) (by have := Fin.lt_def.1 hm; simp at this; omega)).2
        (hpass m.val hmpos (Fin.lt_def.1 hm))

/-! ## What the checks say of the tables -/

/-- Check 4: no point side is named twice, in one list or in two. -/
theorem passes_four_iff :
    s.passes 4 ↔ (∀ i, (s.boundaries i).Nodup) ∧ ∀ i j, i ≠ j → ∀ b ∈ s.boundaries i, b ∉ s.boundaries j := by
  have hnil : ∀ i, s.sectionConfigured i ≠ true → s.boundaries i = [] := fun i hi =>
    List.eq_nil_iff_forall_not_mem.2 fun b hb => hi (sectionConfigured_of_mem_boundaries hb)
  simp only [State.passes, List.nodup_flatMap, mem_configuredSections]
  refine and_congr ⟨fun h i => ?_, fun h i _ => h i⟩ ⟨fun h i j hij b hi hj => ?_, fun h => ?_⟩
  · by_cases hi : s.sectionConfigured i = true
    · exact h i hi
    · simp [hnil i hi]
  · have : Std.Symm (Function.onFun List.Disjoint s.boundaries) := ⟨fun _ _ hd => hd.symm⟩
    exact h.forall (mem_configuredSections.2 (sectionConfigured_of_mem_boundaries hi))
      (mem_configuredSections.2 (sectionConfigured_of_mem_boundaries hj)) hij hi hj
  · exact (configuredSections_nodup s).imp fun hij b hi hj => h _ _ hij b hi hj

/-- Check 5: no list names both sides of a point. -/
theorem passes_five_iff :
    s.passes 5 ↔
      ∀ i p, ¬({ point := p, inside := .a } ∈ s.boundaries i ∧ { point := p, inside := .b } ∈ s.boundaries i) := by
  simp only [State.passes]
  constructor
  · exact fun h i p ⟨ha, hb⟩ => h i _ ha _ hb ⟨rfl, by simp⟩
  · rintro h i ⟨p, x⟩ hb ⟨q, y⟩ hc ⟨hpoint, hside⟩
    simp only at hpoint hside
    subst hpoint
    cases x <;> cases y <;> simp_all

/-- Check 7: a head address names one configured point. -/
theorem passes_seven_iff :
    s.passes 7 ↔ ∀ p q e f, s.pointEntry p = some e → s.pointEntry q = some f → e.headAddress = f.headAddress → p = q := by
  simp only [State.passes, State.repeatsHead]
  constructor
  · intro h p q e f he hf heq
    by_contra hne
    rcases lt_or_gt_of_ne hne with hlt | hlt
    · exact h q ⟨p, e, f, hlt, he, hf, heq⟩
    · exact h p ⟨q, f, e, hlt, hf, he, heq.symm⟩
  · rintro h p ⟨q, e, f, hlt, he, hf, heq⟩
    exact hlt.ne (h q p e f he hf heq)

/-- Check 8: no configured point has the address of a station. -/
theorem passes_eight_iff {r : ParamRecord} (hr : s.tables.params = some r) :
    s.passes 8 ↔ ∀ p e, s.pointEntry p = some e →
      e.headAddress ≠ s.ring.ownAddress ∧ e.headAddress ≠ r.peerAddress ∧ e.headAddress ≠ r.pairAddress
        ∧ e.headAddress ≠ r.interlockingAddress ∧ e.headAddress ≠ r.maintenanceAddress := by
  simp only [State.passes, State.atStation, hr, Option.some.injEq, not_exists, not_and, not_or, ne_eq]
  exact ⟨fun h p e he => h p e r he rfl, fun h p e r' he hr' => hr' ▸ h p e he⟩

end

/-- Settles O52: the checks one by one, and validation as their scan. -/
theorem validationVerdict : Obligations.ValidationVerdict := by
  refine fun s => ⟨?_, fun _ _ => validate_some⟩
  rw [validate_none]
  constructor
  · intro h
    obtain ⟨r, hr⟩ := Option.ne_none_iff_exists'.1 (h 1 (by decide) (by decide))
    have h4 := passes_four_iff.1 (h 4 (by decide) (by decide))
    exact ⟨r, hr, h 2 (by decide) (by decide), h 3 (by decide) (by decide), h4.1, h4.2,
      passes_five_iff.1 (h 5 (by decide) (by decide)), h 6 (by decide) (by decide),
      passes_seven_iff.1 (h 7 (by decide) (by decide)), (passes_eight_iff hr).1 (h 8 (by decide) (by decide))⟩
  · rintro ⟨r, hr, h2, h3, hnodup, hdisjoint, h5, h6, h7, h8⟩ n h1 hn
    interval_cases n
    · simp [State.passes, hr]
    · exact h2
    · exact h3
    · exact passes_four_iff.2 ⟨hnodup, hdisjoint⟩
    · exact passes_five_iff.2 h5
    · exact h6
    · exact passes_seven_iff.2 h7
    · exact (passes_eight_iff hr).2 h8

/-! ## The side map of valid tables (R46) -/

/-- What a side map entry holds of one side. -/
def Sides.on (m : Sides) (x : Side) : Option SectionIndex :=
  match x with
  | .a => m.sideA
  | .b => m.sideB

/-- One boundary in its turn: it claims its side of its own point. -/
def Sides.claimFor (p : PointIndex) (m : Sides) (ib : SectionIndex × Boundary) : Sides :=
  if ib.2.point = p then m.claim ib.2.inside ib.1 else m

theorem buildSides_eq (s : State) (p : PointIndex) :
    s.buildSides p = s.allBoundaries.foldl (Sides.claimFor p) { sideA := none, sideB := none } := rfl

theorem claimFor_on_same (p : PointIndex) (x : Side) (i : SectionIndex) (m : Sides) :
    (m.claimFor p (i, { point := p, inside := x })).on x = some i := by
  cases x <;> simp [Sides.claimFor, Sides.claim, Sides.on]

theorem claimFor_on_other {p : PointIndex} {x : Side} {ib : SectionIndex × Boundary} (m : Sides)
    (h : ib.2 ≠ { point := p, inside := x }) : (m.claimFor p ib).on x = m.on x := by
  obtain ⟨i, q, y⟩ := ib
  unfold Sides.claimFor
  split
  · rename_i hq
    have hq : q = p := hq
    subst hq
    cases x <;> cases y <;> simp_all [Sides.claim, Sides.on]
  · rfl

section
variable {p : PointIndex} {x : Side} {i : SectionIndex} {l : List (SectionIndex × Boundary)}

theorem foldl_claimFor_unnamed (h : ∀ ib ∈ l, ib.2 ≠ { point := p, inside := x }) (m : Sides) :
    (l.foldl (Sides.claimFor p) m).on x = m.on x := by
  induction l generalizing m with
  | nil => rfl
  | cons ib l ih =>
    rw [List.foldl_cons, ih fun jb hj => h jb (List.mem_cons_of_mem _ hj), claimFor_on_other m (h ib (by simp))]

/-- The last claim of a side decides, and of boundaries that differ there is one. -/
theorem foldl_claimFor_named (hnodup : (l.map Prod.snd).Nodup) (h : (i, { point := p, inside := x }) ∈ l) (m : Sides) :
    (l.foldl (Sides.claimFor p) m).on x = some i := by
  induction l generalizing m with
  | nil => cases h
  | cons ib l ih =>
    rw [List.map_cons, List.nodup_cons] at hnodup
    rcases List.mem_cons.1 h with rfl | hmem
    · rw [List.foldl_cons, foldl_claimFor_unnamed fun jb hj he => hnodup.1 (List.mem_map.2 ⟨jb, hj, he⟩),
        claimFor_on_same]
    · exact ih hnodup.2 hmem _

end

/-- R46: with no side named twice, each side of a point belongs to the section whose list names it. -/
theorem buildSides_on {s : State} (h : s.passes 4) (p : PointIndex) (x : Side) (i : SectionIndex) :
    (s.buildSides p).on x = some i ↔ { point := p, inside := x } ∈ s.boundaries i := by
  have hnodup : (s.allBoundaries.map Prod.snd).Nodup := by rwa [allBoundaries_map_snd]
  rw [buildSides_eq, ← mem_allBoundaries]
  constructor
  · intro hon
    by_contra hno
    by_cases hnamed : ∃ j, (j, { point := p, inside := x }) ∈ s.allBoundaries
    · obtain ⟨j, hj⟩ := hnamed
      rw [foldl_claimFor_named hnodup hj] at hon
      exact hno (Option.some.inj hon ▸ hj)
    · rw [foldl_claimFor_unnamed fun ib hib he => hnamed ⟨ib.1, he ▸ hib⟩] at hon
      cases x <;> cases hon
  · exact fun hmem => foldl_claimFor_named hnodup hmem _

theorem buildSideMap_sides (s : State) (p : PointIndex) :
    (buildSideMap s).sides p = if s.pointConfigured p then s.buildSides p else { sideA := none, sideB := none } := by
  simp only [State.sides, buildSideMap, tabulate_get]
  by_cases hp : s.pointConfigured p = true <;> simp [hp]

/-- R46, R178: the side map built from valid tables agrees with the boundary lists in both directions. -/
theorem sideMapSound_of_valid {s t : State} (hv : s.validate = none) (hs : t.tables.sections = s.tables.sections)
    (hm : t.sections.sideMap = (buildSideMap s).sections.sideMap) : SideMapSound t := by
  have hpass := validate_none.1 hv
  have hside : ∀ p x i, (t.sides p).on x = some i ↔ { point := p, inside := x } ∈ t.boundaries i := fun p x i => by
    rw [sides_congr hm, buildSideMap_sides, boundaries_congr hs]
    split
    · exact buildSides_on (hpass 4 (by decide) (by decide)) p x i
    · rename_i hp
      have hno : { point := p, inside := x } ∉ s.boundaries i := fun hb =>
        hp (hpass 3 (by decide) (by decide) i _ hb)
      cases x <;> simp [Sides.on, hno]
  refine fun p i => ⟨hside p .a i, hside p .b i, ?_⟩
  rintro ⟨ha, hb⟩
  refine passes_five_iff.1 (hpass 5 (by decide) (by decide)) i p ?_
  rw [← boundaries_congr hs]
  exact ⟨(hside p .a i).1 ha, (hside p .b i).1 hb⟩

end Sys2Proof.Machine
end

section
/-! PROOFS. The proof of CLEAR is kept (R46, R50, R57, R59, R65, R71, R75, R80, R171). A section that counts rests on its boundary
points alone: what a point does in favour of the section keeps it, and what a point does against it reaches the section through
the side map in the same action. -/

namespace Sys2Proof.Machine

/-! ## One section record -/

/-- Every boundary point of the section is HEALTHY. -/
def State.HealthyAt (s : State) (i : SectionIndex) : Prop := ∀ b ∈ s.boundaries i, (s.point b.point).status = .healthy

/-- Every boundary point of the section is in phase IDLE. -/
def State.QuietAt (s : State) (i : SectionIndex) : Prop := ∀ b ∈ s.boundaries i, (s.point b.point).phase = .idle

/-- What holds of a section record beside the boundary points (R48..R50, R59, R66, R71, R73, R75). -/
structure RecordSound (s : State) (i : SectionIndex) (r : SectionRecord) : Prop where
  count : r.count ≤ 1023
  sweepWait : r.state = .sweepWait → r.count = 0
  cause : r.cause = .none ↔ r.state ≠ .disturbed
  settle : r.settle ≠ none ↔ r.state = .settling
  configured : r.state ≠ .disturbed → s.sectionConfigured i = true
  service : r.state ≠ .disturbed → s.tables.mode = .service

/-- A sound record that the boundary points bear out (R57, R65, R80). -/
structure Proven (s : State) (i : SectionIndex) (r : SectionRecord) : Prop extends RecordSound s i r where
  healthy : r.state ≠ .disturbed → s.HealthyAt i
  clear : r.state = .clear ∨ r.state = .awaitPeer ∨ r.state = .settling → r.count = 0 ∧ s.QuietAt i

/-- What the proof of CLEAR asks beside the section records (R46, R171, R172, R177). -/
structure Framed (s : State) : Prop where
  activated : s.tables.activated = true ↔ s.tables.mode ≠ .config
  load : s.tables.load ≠ none → s.tables.mode = .config ∧ s.requests.activation = none
  activation : s.requests.activation ≠ none → s.tables.mode = .config
  sideMap : s.tables.mode ≠ .config → SideMapSound s

theorem trackSound_iff (s : State) : TrackSound s ↔ Framed s ∧ ∀ i, Proven s i (s.sect i) := by
  constructor
  · rintro ⟨sections, activated, load, activation, sideMap, service, healthy, clear⟩
    refine ⟨⟨activated, load, activation, sideMap⟩, fun i => ?_⟩
    obtain ⟨count, sweepWait, cause, settle, configured⟩ := sections i
    exact ⟨⟨count, sweepWait, cause, settle, configured, service i⟩, healthy i, clear i⟩
  · rintro ⟨⟨activated, load, activation, sideMap⟩, hproven⟩
    refine ⟨fun i => ?_, activated, load, activation, sideMap, fun i => (hproven i).service,
      fun i => (hproven i).healthy, fun i => (hproven i).clear⟩
    obtain ⟨⟨count, sweepWait, cause, settle, configured, -⟩, -, -⟩ := hproven i
    exact ⟨count, sweepWait, cause, settle, configured⟩

section
variable {s t : State} {i : SectionIndex} {r : SectionRecord}

theorem TrackSound.framed (h : TrackSound s) : Framed s := ((trackSound_iff s).1 h).1

theorem TrackSound.proven (h : TrackSound s) (i : SectionIndex) : Proven s i (s.sect i) := ((trackSound_iff s).1 h).2 i

theorem sideMapSound_congr (h : SideMapSound s) (hs : t.tables.sections = s.tables.sections)
    (hm : t.sections.sideMap = s.sections.sideMap) : SideMapSound t := fun p i => by
  rw [sides_congr hm, boundaries_congr hs]
  exact h p i

theorem Framed.congr (h : Framed s) (ht : t.tables = s.tables) (ha : t.requests.activation = s.requests.activation)
    (hm : t.sections.sideMap = s.sections.sideMap) : Framed t := by
  refine ⟨by rw [ht]; exact h.activated, by rw [ht, ha]; exact h.load, by rw [ht, ha]; exact h.activation, ?_⟩
  rw [ht]
  exact fun hne => sideMapSound_congr (h.sideMap hne) (by rw [ht]) hm

/-- R75: outside SERVICE every section is DISTURBED. -/
theorem TrackSound.disturbed (h : TrackSound s) (hm : s.tables.mode ≠ .service) (i : SectionIndex) :
    (s.sect i).state = .disturbed := by
  by_contra hne
  exact hm (h.service i hne)

/-- A DISTURBED record asks nothing of the points. -/
theorem proven_of_disturbed (hst : r.state = .disturbed) (hn : r.count ≤ 1023) (hc : r.cause ≠ .none)
    (hs : r.settle = none) : Proven s i r :=
  ⟨⟨hn, by simp [hst], by simp [hst, hc], by simp [hst, hs], by simp [hst], by simp [hst]⟩, by simp [hst], by simp [hst]⟩

theorem Proven.disturbed (h : Proven s i r) (hst : r.state = .disturbed) : Proven t i r :=
  proven_of_disturbed hst h.count (fun hc => (h.cause.1 hc) hst) (by
    by_contra hne
    rw [h.settle.1 hne] at hst
    cases hst)

theorem Proven.nowDisturbed (h : Proven s i r) {c : SectionCause} (hc : c ≠ .none) : Proven t i (r.nowDisturbed c) :=
  proven_of_disturbed rfl h.count hc rfl

/-! ## Points that act in favour of their sections -/

/-- Every HEALTHY point stays so, and stays in IDLE where it was. -/
def Calmer (s t : State) : Prop :=
  ∀ p, (s.point p).status = .healthy →
    (t.point p).status = .healthy ∧ ((s.point p).phase = .idle → (t.point p).phase = .idle)

theorem Calmer.of_points (h : t.points.records = s.points.records) : Calmer s t := fun p hh => by
  rw [point_congr h]
  exact ⟨hh, id⟩

theorem Proven.calmer (h : Proven s i r)
    (ht : t.tables.mode = s.tables.mode ∧ t.tables.sections = s.tables.sections) (hc : Calmer s t) : Proven t i r := by
  obtain ⟨⟨count, sweepWait, cause, settle, configured, service⟩, healthy, clear⟩ := h
  have hboundaries : t.boundaries i = s.boundaries i := boundaries_congr ht.2 i
  refine ⟨⟨count, sweepWait, cause, settle, fun hne => ?_, fun hne => ?_⟩, fun hne b hb => ?_, fun hst => ?_⟩
  · rw [sectionConfigured_congr ht.2]
    exact configured hne
  · rw [ht.1]
    exact service hne
  · exact (hc _ (healthy hne b (hboundaries ▸ hb))).1
  · obtain ⟨hn, hquiet⟩ := clear hst
    have hne : r.state ≠ .disturbed := by rcases hst with e | e | e <;> simp [e]
    refine ⟨hn, fun b hb => ?_⟩
    rw [hboundaries] at hb
    exact (hc _ (healthy hne b hb)).2 (hquiet b hb)

theorem TrackSound.calmer (h : TrackSound s) (ht : t.tables = s.tables)
    (ha : t.requests.activation = s.requests.activation) (hs : t.sections = s.sections) (hc : Calmer s t) :
    TrackSound t := by
  refine (trackSound_iff t).2 ⟨h.framed.congr ht ha (by rw [hs]), fun i => ?_⟩
  rw [sect_congr (congrArg SectionCounter.records hs)]
  exact (h.proven i).calmer (by simp [ht]) hc

/-- The proof of CLEAR reads the points, the sections, the tables and the activation in flight. -/
theorem TrackSound.congr (h : TrackSound s)
    (ht : t.tables = s.tables ∧ t.requests.activation = s.requests.activation ∧ t.sections = s.sections
      ∧ t.points.records = s.points.records) : TrackSound t := by
  obtain ⟨htables, hact, hsections, hpoints⟩ := ht
  exact h.calmer htables hact hsections (Calmer.of_points hpoints)

/-- Another load or activation in flight, where the mode allows it (R172, R177). -/
theorem TrackSound.tables (h : TrackSound s)
    (ht : t.tables.mode = s.tables.mode ∧ t.tables.activated = s.tables.activated
      ∧ t.tables.sections = s.tables.sections ∧ t.sections = s.sections ∧ t.points.records = s.points.records)
    (hl : t.tables.load ≠ none → s.tables.mode = .config ∧ t.requests.activation = none)
    (ha : t.requests.activation ≠ none → s.tables.mode = .config) : TrackSound t := by
  obtain ⟨hmode, hactivated, htables, hsections, hpoints⟩ := ht
  refine (trackSound_iff t).2 ⟨⟨?_, ?_, ?_, ?_⟩, fun i => ?_⟩
  · rw [hmode, hactivated]
    exact h.activated
  · rw [hmode]
    exact hl
  · rw [hmode]
    exact ha
  · rw [hmode]
    exact fun hne => sideMapSound_congr (h.sideMap hne) htables (by rw [hsections])
  · rw [sect_congr (congrArg SectionCounter.records hsections)]
    exact (h.proven i).calmer ⟨hmode, htables⟩ (Calmer.of_points hpoints)

/-- One point record written in favour of the sections. -/
theorem TrackSound.setPoint {p : PointIndex} {x : PointRecord} (h : TrackSound s)
    (hx : (s.point p).status = .healthy → x.status = .healthy ∧ ((s.point p).phase = .idle → x.phase = .idle)) :
    TrackSound (s.setPoint p x) := by
  refine h.calmer (by simp) (by simp) (by simp) fun q hq => ?_
  rw [setPoint_point]
  by_cases hqp : q = p
  · subst hqp
    simpa using hx hq
  · simpa [hqp] using hq

/-! ## Records written (R69) -/

/-- A section record written and told about, where the points bear it out. -/
theorem TrackSound.commitSect (h : TrackSound s) (hr : Proven s i r) : TrackSound (s.commitSect i r) := by
  refine (trackSound_iff _).2 ⟨h.framed.congr (by simp) (by simp) (by simp), fun j => ?_⟩
  rw [commitSect_sect]
  split
  · rename_i hji
    subst hji
    exact hr.calmer (by simp) (Calmer.of_points (by simp))
  · exact (h.proven j).calmer (by simp) (Calmer.of_points (by simp))

theorem TrackSound.disturb {c : SectionCause} (h : TrackSound s) (hc : c ≠ .none) (i : SectionIndex) :
    TrackSound (disturb c i s) := by
  unfold Machine.disturb
  split
  · exact h
  · exact (h.commitSect ((h.proven i).nowDisturbed hc)).congr (by simp [nowDisturbed_eq])

/-! ## Occupancy and counts (R50..R64) -/

theorem RecordSound.congr (h : RecordSound s i r)
    (ht : t.tables.mode = s.tables.mode ∧ t.tables.sections = s.tables.sections) : RecordSound t i r := by
  obtain ⟨count, sweepWait, cause, settle, configured, service⟩ := h
  refine ⟨count, sweepWait, cause, settle, fun hne => ?_, fun hne => ht.1.trans (service hne)⟩
  rw [sectionConfigured_congr ht.2]
  exact configured hne

theorem RecordSound.withCount (h : RecordSound s i r) {n : Nat} (hn : n ≤ 1023) (h0 : r.state = .sweepWait → n = 0) :
    RecordSound s i { r with count := n } :=
  ⟨hn, h0, h.cause, h.settle, h.configured, h.service⟩

/-- A counting record moves on to OCCUPIED or SWEEP_RUN, where no settle timer runs. -/
theorem RecordSound.moved (h : RecordSound s i r) (hc : r.state ≠ .disturbed) {n : Nat} (hn : n ≤ 1023) (x : Byte)
    {st : SectionState} (hst : st = .occupied ∨ st = .sweepRun) {m : Option Timer} (hm : m = none) :
    RecordSound s i { r with count := n, state := st, serial := x, settle := m } := by
  refine ⟨hn, ?_, ?_, ?_, fun _ => h.configured hc, fun _ => h.service hc⟩
  · rcases hst with rfl | rfl <;> simp
  · rcases hst with rfl | rfl <;> simpa using h.cause.2 hc
  · rcases hst with rfl | rfl <;> simp [hm]

/-- A settle timer stands only in SETTLING. -/
theorem RecordSound.settle_none (h : RecordSound s i r) (hst : r.state ≠ .settling) : r.settle = none := by
  by_contra hne
  exact hst (h.settle.1 hne)

/-- R59: a configured section has a settle time to load. -/
theorem freshSettle_ne_none (h : s.sectionConfigured i = true) : s.freshSettle i ≠ none := by
  simpa [State.freshSettle] using sectionConfigured_iff.1 h

theorem RecordSound.settling (h : RecordSound s i r) (hc : r.state ≠ .disturbed) {n : Nat} (hn : n ≤ 1023) (x : Byte)
    {m : Option Timer} (hm : m ≠ none) :
    RecordSound s i { r with count := n, state := .settling, serial := x, settle := m } :=
  ⟨hn, by simp, by simpa using h.cause.2 hc, by simpa using hm, fun _ => h.configured hc, fun _ => h.service hc⟩

/-- R56: an unoccupied section holds no axle, and with every boundary point HEALTHY it has no wheel over a boundary. -/
theorem quiet_of_unoccupied {n : Nat} (hh : s.HealthyAt i) (ho : ¬s.OccupiedWith n i) : n = 0 ∧ s.QuietAt i := by
  simp only [State.OccupiedWith, not_or, not_exists, not_and, not_not] at ho
  obtain ⟨hn, hphase⟩ := ho
  exact ⟨by omega, fun b hb => hphase b hb (hh b hb)⟩

/-- A section that is neither CLEAR nor about to become so needs its boundary points HEALTHY, no more. -/
theorem proven_of_busy (hr : RecordSound s i r) (hst : r.state = .occupied ∨ r.state = .sweepRun ∨ r.state = .sweepWait)
    (hh : s.HealthyAt i) : Proven s i r :=
  ⟨hr, fun _ => hh, by rcases hst with e | e | e <;> simp [e]⟩

/-- Re-derived against HEALTHY boundary points, any sound record is borne out (Table 3-8). -/
theorem Rederives.proven {n : Nat} (h : Rederives n i s t) (hr : RecordSound s i (s.sect i)) (hn : n ≤ 1023)
    (h0 : (s.sect i).state = .sweepWait → n = 0) (hh : (s.sect i).state ≠ .disturbed → t.HealthyAt i)
    (ht : t.tables = s.tables) : Proven t i (t.sect i) := by
  have hrt : RecordSound t i (s.sect i) := hr.congr (by simp [ht])
  have hstates : (s.sect i).state = .disturbed ∨ (s.sect i).state = .sweepWait
      ∨ ((s.sect i).state = .occupied ∨ (s.sect i).state = .sweepRun)
      ∨ ((s.sect i).state = .clear ∨ (s.sect i).state = .awaitPeer) ∨ (s.sect i).state = .settling := by
    cases (s.sect i).state <;> simp
  rcases hstates with hst | hst | hst | hst | hst
  · rw [h.held (.inl hst)]
    exact proven_of_disturbed hst hn (fun hc => hr.cause.1 hc hst) (hr.settle_none (by simp [hst]))
  · rw [h.held (.inr hst)]
    exact proven_of_busy (hrt.withCount hn h0) (.inr (.inr hst)) (hh (by simp [hst]))
  · have hc : (s.sect i).state ≠ .disturbed := by rcases hst with e | e <;> simp [e]
    by_cases ho : t.OccupiedWith n i
    · rw [h.busy hst ho]
      exact proven_of_busy (hrt.withCount hn h0) (by tauto) (hh hc)
    · rw [h.empties hst ho]
      exact ⟨hrt.settling hc hn _ (freshSettle_ne_none (hr.configured hc)), fun _ => hh hc,
        fun _ => quiet_of_unoccupied (hh hc) ho⟩
  · have hc : (s.sect i).state ≠ .disturbed := by rcases hst with e | e <;> simp [e]
    by_cases ho : t.OccupiedWith n i
    · rw [h.approached hst ho]
      have hsettle := hr.settle_none (by rcases hst with e | e <;> simp [e])
      exact proven_of_busy (hrt.moved hc hn _ (.inl rfl) hsettle) (.inl rfl) (hh hc)
    · rw [h.quiet (by tauto) ho]
      exact ⟨hrt.withCount hn h0, fun _ => hh hc, fun _ => quiet_of_unoccupied (hh hc) ho⟩
  · have hc : (s.sect i).state ≠ .disturbed := by simp [hst]
    by_cases ho : t.OccupiedWith n i
    · rw [h.unsettled hst ho]
      exact proven_of_busy (hrt.moved hc hn _ (.inl rfl) rfl) (.inl rfl) (hh hc)
    · rw [h.quiet (.inr (.inr hst)) ho]
      exact ⟨hrt.withCount hn h0, fun _ => hh hc, fun _ => quiet_of_unoccupied (hh hc) ho⟩

/-- A completed pass at one section whose boundary points are HEALTHY (Table 3-7). -/
theorem Passes.proven {ch : CountChange} (h : Passes ch i s t) (hr : Proven s i (s.sect i))
    (hh : (s.sect i).state ≠ .disturbed → t.HealthyAt i) (ht : t.tables = s.tables) : Proven t i (t.sect i) := by
  have hcount := hr.count
  by_cases hd : (s.sect i).state = .disturbed
  · rw [h.disturbed hd]
    exact hr.disturbed hd
  by_cases hw : (s.sect i).state = .sweepWait
  · cases ch with
    | decrement =>
      rw [h.clamp hw rfl]
      exact proven_of_busy (hr.toRecordSound.congr (by simp [ht])) (.inr (.inr hw)) (hh hd)
    | increment =>
      have hzero := hr.sweepWait hw
      rw [h.sweep hw rfl (by omega)]
      have hsettle := hr.toRecordSound.settle_none (by simp [hw])
      exact proven_of_busy ((hr.toRecordSound.congr (by simp [ht])).moved hd (by omega) _ (.inr rfl) hsettle)
        (.inr (.inl rfl)) (hh hd)
  have h0 : ∀ n, (s.sect i).state = .sweepWait → n = 0 := fun n e => absurd e hw
  cases ch with
  | increment =>
    by_cases hfull : (s.sect i).count < 1023
    · exact (h.increment hd hw rfl hfull).proven hr.toRecordSound (by omega) (h0 _) hh ht
    · rw [h.overflow hd rfl (by omega)]
      exact hr.nowDisturbed (by simp)
  | decrement =>
    by_cases hempty : (s.sect i).count = 0
    · rw [h.underflow hd hw rfl hempty]
      exact hr.nowDisturbed (by simp)
    · exact (h.decrement hd hw rfl (by omega)).proven hr.toRecordSound (by omega) (h0 _) hh ht

/-! ## Points that act on their sections (R35, R36, R47) -/

theorem HealthyAt.congr (hh : s.HealthyAt i) (ht : t.tables = s.tables) (hp : t.points.records = s.points.records) :
    t.HealthyAt i := fun b hb => by
  rw [point_congr hp]
  exact hh b (boundaries_congr (congrArg TableStore.sections ht) i ▸ hb)

/-- An action at one section leaves the proof of the others as it is. -/
theorem TrackSound.of_section (h : TrackSound s) (ht : t.tables = s.tables) (hp : t.points = s.points)
    (ha : t.requests.activation = s.requests.activation) (hm : t.sections.sideMap = s.sections.sideMap)
    (hothers : ∀ j, j ≠ i → t.sect j = s.sect j) (hi : Proven t i (t.sect i)) : TrackSound t := by
  refine (trackSound_iff t).2 ⟨h.framed.congr ht ha hm, fun j => ?_⟩
  by_cases hji : j = i
  · exact hji ▸ hi
  · rw [hothers j hji]
    exact (h.proven j).calmer (by simp [ht]) (Calmer.of_points (by rw [hp]))

theorem rederive_trackSound (i : SectionIndex) (s : State) (h : TrackSound s) : TrackSound (rederive i s) :=
  h.of_section (i := i) (by simp) (by simp) (by simp) (by simp) (fun j hj => rederive_sect_ne i j s hj)
    ((rederive_rederives i s).proven (h.proven i).toRecordSound (h.proven i).count (h.proven i).sweepWait
      (fun hne => HealthyAt.congr ((h.proven i).healthy hne) (by simp) (by simp)) (by simp))

theorem countAt_trackSound (ch : CountChange) (i : SectionIndex) (s : State) (h : TrackSound s) : TrackSound (countAt ch i s) :=
  h.of_section (i := i) (by simp) (by simp) (by simp) (by simp) (fun j hj => countAt_sect_ne ch i j s hj)
    ((countAt_passes ch i s).proven (h.proven i)
      (fun hne => HealthyAt.congr ((h.proven i).healthy hne) (by simp) (by simp)) (by simp))

/-- R46: a point is named by no list of a section that is on neither of its sides. -/
theorem not_named_of_not_mem_sidesOf {p : PointIndex} (h : SideMapSound s) (hi : i ∉ s.sidesOf p) :
    ∀ b ∈ s.boundaries i, b.point ≠ p := by
  rintro ⟨q, x⟩ hb rfl
  obtain ⟨ha, hb', -⟩ := h q i
  refine hi ?_
  cases x with
  | a =>
    have hside := ha.2 hb
    unfold State.sidesOf
    rw [hside]
    cases (s.sides q).sideB with
    | none => simp
    | some j => by_cases hij : i = j <;> simp [hij]
  | b =>
    have hside := hb'.2 hb
    unfold State.sidesOf
    rw [hside]
    cases (s.sides q).sideA with
    | none => simp
    | some j => by_cases hij : j = i <;> simp [hij]

/-- What a point does is nothing to a section on neither of its sides. -/
theorem TrackSound.proven_of_not_mem_sidesOf {p : PointIndex} (h : TrackSound s) (ht : t.tables = s.tables)
    (hp : ∀ q, q ≠ p → t.point q = s.point q) (hi : i ∉ s.sidesOf p) : Proven t i (s.sect i) := by
  by_cases hd : (s.sect i).state = .disturbed
  · exact (h.proven i).disturbed hd
  have hservice := h.service i hd
  have hnamed := not_named_of_not_mem_sidesOf (h.sideMap (by simp [hservice])) hi
  obtain ⟨hr, hhealthy, hclear⟩ := h.proven i
  have hboundaries : t.boundaries i = s.boundaries i := boundaries_congr (congrArg TableStore.sections ht) i
  refine ⟨hr.congr (by simp [ht]), fun hne b hb => ?_, fun hst => ⟨(hclear hst).1, fun b hb => ?_⟩⟩ <;>
    rw [hboundaries] at hb <;>
    rw [hp _ (hnamed b hb)]
  · exact hhealthy hne b hb
  · exact (hclear hst).2 b hb

/-- R13: every section of the point is DISTURBED by its fault. -/
theorem TrackSound.enterFaulted (h : TrackSound s) (p : PointIndex) (c : FaultCause) : TrackSound (enterFaulted p c s) := by
  have hspec := enterFaulted_spec p c s
  refine (trackSound_iff _).2 ⟨h.framed.congr (by simp) (by simp) (by simp), fun i => ?_⟩
  rw [hspec.notice.records i]
  split
  · exact (h.proven i).nowDisturbed (by simp)
  · rename_i hno
    by_cases hd : (s.sect i).state = .disturbed
    · exact (h.proven i).disturbed hd
    · exact h.proven_of_not_mem_sidesOf (by simp) (fun q hq => by rw [hspec.record q, if_neg hq]) fun hi => hno ⟨hi, hd⟩

/-- R35: every section of a point that leaves IDLE re-derives its occupancy. -/
theorem TrackSound.leaveIdle {p : PointIndex} {x : PointRecord} (h : TrackSound s)
    (hx : (s.point p).status = .healthy → x.status = .healthy) :
    TrackSound (announceOccupancy p (s.setPoint p x)) := by
  have hspec := announceOccupancy_spec p (s.setPoint p x)
  rw [sidesOf_congr (s := s) (by simp)] at hspec
  have hsect : ∀ i, (s.setPoint p x).sect i = s.sect i := fun i => sect_congr (by simp) i
  have hpoint : ∀ q, (announceOccupancy p (s.setPoint p x)).point q = if q = p then x else s.point q := fun q => by
    rw [← setPoint_point]
    exact point_congr (by simp) q
  refine (trackSound_iff _).2 ⟨h.framed.congr (by simp) (by simp) (by simp), fun i => ?_⟩
  by_cases hi : i ∈ s.sidesOf p
  · have hr := hspec.named i hi
    obtain ⟨hrec, hhealthy, -⟩ := h.proven i
    rw [← hsect i] at hrec hhealthy
    refine hr.proven (hrec.congr (by simp)) hrec.count hrec.sweepWait (fun hne b hb => ?_) (by simp)
    have hb' : (s.point b.point).status = .healthy :=
      hhealthy hne b (by rwa [boundaries_congr (s := s) (by simp)] at hb)
    rw [hpoint]
    split
    · rename_i hbp
      exact hx (hbp ▸ hb')
    · exact hb'
  · rw [hspec.others i hi, hsect]
    exact h.proven_of_not_mem_sidesOf (by simp) (fun q hq => by rw [hpoint, if_neg hq]) hi

end

/-! ## Records applied (1.6 to 1.9, 2.2) -/

theorem atSide_trackSound {o : Option SectionIndex} {act : SectionIndex → State → State}
    (hact : ∀ i s, TrackSound s → TrackSound (act i s)) {s : State} (h : TrackSound s) : TrackSound (atSide o act s) :=
  Writes.atSide hact s h

theorem announceOccupancy_trackSound {p : PointIndex} {s : State} (h : TrackSound s) : TrackSound (announceOccupancy p s) :=
  atSide_trackSound rederive_trackSound (atSide_trackSound rederive_trackSound h)

theorem announcePass_trackSound {p : PointIndex} {d : Direction} {s : State} (h : TrackSound s) :
    TrackSound (announcePass p d s) :=
  atSide_trackSound (countAt_trackSound _) (atSide_trackSound (countAt_trackSound _) h)

theorem judge_trackSound {p : PointIndex} {s : State} (h : TrackSound s) : TrackSound (judge p s) := by
  unfold judge
  split
  · exact h
  dsimp only
  split
  · exact (h.setPoint (p := p) (x := { s.point p with suspect := 0 }) fun hh => ⟨hh, id⟩).congr (by simp)
  · exact h.setPoint fun hh => ⟨hh, id⟩

theorem phaseStep_trackSound {r : EventRecord} {s : State} (h : TrackSound s) : TrackSound (phaseStep r s) := by
  obtain ⟨hmove, -, hretake, hmeasure⟩ := phaseCell_phases (s.point r.point).phase r.s1 r.s2
  unfold phaseStep
  dsimp only
  split
  case h_1 => exact h
  case h_2 y hy => exact h.setPoint fun hh => ⟨hh, fun e => absurd e (hmove y hy).1⟩
  case h_3 y hy => exact h.leaveIdle id
  case h_4 y hy => exact h.setPoint fun hh => ⟨hh, fun e => absurd e (hretake y hy).1⟩
  case h_5 y hy => exact h.setPoint fun hh => ⟨hh, fun e => absurd e (hmeasure y hy).1⟩
  case h_6 => exact announceOccupancy_trackSound (h.setPoint fun hh => ⟨hh, fun _ => rfl⟩)
  case h_7 d _ => exact judge_trackSound (announcePass_trackSound (h.setPoint fun hh => ⟨hh, fun _ => rfl⟩))
  case h_8 => exact h.congr (by simp)

theorem enterService_trackSound {s : State} (hm : s.tables.mode = .startUp) (h : TrackSound s) :
    TrackSound (enterService s) := by
  have hload : s.tables.load = none := by
    by_contra hl
    exact absurd (hm.symm.trans (h.load hl).1) (by decide)
  have hact : s.requests.activation = none := by
    by_contra ha
    exact absurd (hm.symm.trans (h.activation ha)) (by decide)
  have hframed : Framed (enterService s) :=
    ⟨⟨fun _ => by simp [enterService], fun _ => h.activated.2 (by simp [hm])⟩, fun hl => absurd hload hl,
      fun ha => absurd hact ha, fun _ => h.sideMap (by simp [hm])⟩
  exact (trackSound_iff _).2 ⟨hframed, fun i => (h.proven i).disturbed (h.disturbed (by simp [hm]) i)⟩

theorem reportDeparture_trackSound {s : State} (h : TrackSound s) : TrackSound (reportDeparture s) := by
  unfold reportDeparture
  split
  · rename_i hm
    exact enterService_trackSound hm.1 h
  · exact h

theorem applyRecord_trackSound {r : EventRecord} {s : State} (h : TrackSound s) : TrackSound (applyRecord r s) := by
  unfold applyRecord
  split
  · unfold applyHealthy
    split
    · exact h
    · exact h.enterFaulted _ _
    · have hset := h.setPoint (p := r.point) (x := { s.point r.point with seqRef := some r.seq }) fun hh => ⟨hh, id⟩
      dsimp only
      split
      · exact hset.enterFaulted _ _
      · exact phaseStep_trackSound hset
  · rename_i hst
    unfold applyStarting
    repeat' split
    · exact reportDeparture_trackSound (h.enterFaulted _ _)
    · exact reportDeparture_trackSound (h.enterFaulted _ _)
    · exact reportDeparture_trackSound (h.setPoint fun hh => absurd (hst.symm.trans hh) (by decide))
  · rename_i hst
    unfold applyFaulted
    split
    · exact h
    · exact h.setPoint fun hh => absurd (hst.symm.trans hh) (by decide)
  · exact h
  · exact h

/-! ## Every action -/

theorem takeRequest_trackSound {q : FaultRequest} {s : State} (h : TrackSound s) : TrackSound (takeRequest q s) := by
  have hnone : TrackSound { s with points := { s.points with request := none } } := h.congr (by simp)
  unfold takeRequest
  dsimp only
  split
  · exact hnone.enterFaulted _ _
  · exact hnone

theorem supervisionExpired_trackSound {p : PointIndex} {s : State} (h : TrackSound s) :
    TrackSound (supervisionExpired p s) := by
  unfold supervisionExpired
  split
  · exact h.enterFaulted _ _
  · rename_i hne
    exact h.setPoint fun hh => absurd hh hne

theorem snoopHead_trackSound {t : Telegram} {s : State} (h : TrackSound s) : TrackSound (snoopHead t s) := by
  have hrestart : ∀ p, TrackSound (restartSupervision p s) := fun p => by
    unfold restartSupervision
    repeat' split
    · exact h.setPoint fun hh => ⟨hh, id⟩
    · exact h.setPoint fun hh => ⟨hh, id⟩
    · exact h
  unfold snoopHead
  repeat' split
  · exact h
  · rename_i p _ _
    exact (hrestart p).congr (by simp)
  · exact h

theorem foldl_timeoutPoint_trackSound (l : List PointIndex) {s : State} (h : TrackSound s) :
    TrackSound (l.foldl timeoutPoint s) := by
  induction l generalizing s with
  | nil => exact h
  | cons p l ih =>
    refine ih ?_
    unfold timeoutPoint
    split
    · exact h.enterFaulted _ _
    · exact h

theorem startLimitExpired_trackSound {s : State} (hm : s.tables.mode = .startUp) (h : TrackSound s) :
    TrackSound (startLimitExpired s) :=
  enterService_trackSound (by rw [timeouts_mode, hm]) (foldl_timeoutPoint_trackSound _ h)

/-- R57, R62: what has waited for the peer is still quiet. -/
theorem peerNotice_trackSound {i : SectionIndex} {s : State} (h : TrackSound s) : TrackSound (peerNotice i s) := by
  unfold peerNotice
  split
  · rename_i hst
    obtain ⟨hrec, hhealthy, hclear⟩ := h.proven i
    have hc : (s.sect i).state ≠ .disturbed := by simp [hst]
    have hsettle := hrec.settle_none (by simp [hst])
    refine h.commitSect ⟨⟨hrec.count, ?_, ?_, ?_, fun _ => hrec.configured hc, fun _ => hrec.service hc⟩,
      fun _ => hhealthy hc, fun _ => hclear (.inr (.inl hst))⟩
    · simp [SectionRecord.enter]
    · simpa [SectionRecord.enter] using hrec.cause.2 hc
    · simp [SectionRecord.enter, hsettle]
  · exact h

theorem snoopReport_trackSound {t : Telegram} {s : State} (h : TrackSound s) : TrackSound (snoopReport t s) := by
  have htake : ∀ (l : List ReportEntry) (u : State), TrackSound u → TrackSound (l.foldl takeEntry u) := fun l => by
    induction l with
    | nil => exact fun u hu => hu
    | cons e l ih =>
      refine fun u hu => ih _ ?_
      unfold takeEntry
      dsimp only
      repeat' split
      · exact peerNotice_trackSound (hu.congr (by simp))
      · exact hu.congr (by simp)
      · exact hu
  unfold snoopReport
  repeat' split
  · exact h
  · exact h
  · unfold takeReport
    dsimp only
    split
    · exact htake _ _ (h.congr (by simp))
    · exact h.congr (by simp)

/-- R61: a SETTLING section is quiet, and moves on. -/
theorem settle_trackSound {i : SectionIndex} {s : State} (hd : s.settleDue i = true) (h : TrackSound s) :
    TrackSound (s.commitSect i (s.settled i)) := by
  have hst : (s.sect i).state = .settling := by
    simp only [State.settleDue, Bool.and_eq_true, decide_eq_true_eq] at hd
    exact hd.1
  obtain ⟨hrec, hhealthy, hclear⟩ := h.proven i
  have hc : (s.sect i).state ≠ .disturbed := by simp [hst]
  have hmoved : ∀ (st : SectionState) (x : Byte), st = .clear ∨ st = .awaitPeer →
      Proven s i { s.sect i with state := st, serial := x, settle := none } := by
    rintro st x hst'
    refine ⟨⟨hrec.count, ?_, ?_, ?_, fun _ => hrec.configured hc, fun _ => hrec.service hc⟩,
      fun _ => hhealthy hc, fun _ => hclear (.inr (.inr hst))⟩
    · rcases hst' with rfl | rfl <;> simp
    · rcases hst' with rfl | rfl <;> simpa using hrec.cause.2 hc
    · rcases hst' with rfl | rfl <;> simp
  refine h.commitSect ?_
  unfold State.settled
  dsimp only
  split
  · exact hmoved _ _ (.inl rfl)
  · split
    · exact hmoved _ _ (.inl rfl)
    · exact hmoved _ _ (.inr rfl)

/-- R80: check 7 of a restoration finds every boundary point ready. -/
theorem ready_of_firstNotReady {k : Restoration} {i : SectionIndex} {s : State} (h : s.firstNotReady k i = none) :
    s.HealthyAt i ∧ (k = .direct → s.QuietAt i) := by
  simp only [State.firstNotReady, Option.map_eq_none_iff, List.find?_eq_none, State.notReadyAt] at h
  cases k with
  | sweep => exact ⟨fun b hb => by simpa using h b hb, by simp⟩
  | direct =>
    simp only [Bool.or_eq_true, decide_eq_true_eq, not_or, not_not] at h
    exact ⟨fun b hb => (h b hb).1, fun _ b hb => (h b hb).2⟩

/-- R81: a restored section holds no axle and rests on points found ready. -/
theorem restore_trackSound {k : Restoration} {i : SectionIndex} {s : State} (hm : s.tables.mode = .service)
    (hconf : s.sectionConfigured i = true) (hd : (s.sect i).state = .disturbed) (hready : s.firstNotReady k i = none)
    (h : TrackSound s) : TrackSound (s.commitSect i (s.restored k i)) := by
  obtain ⟨hhealthy, hquiet⟩ := ready_of_firstNotReady hready
  refine h.commitSect ?_
  cases k with
  | sweep =>
    refine proven_of_busy ⟨?_, ?_, ?_, ?_, fun _ => hconf, fun _ => hm⟩ (.inr (.inr rfl)) hhealthy
    · simp [State.restored, SectionRecord.enter]
    · simp [State.restored, SectionRecord.enter]
    · simp [State.restored, SectionRecord.enter]
    · simpa [State.restored, SectionRecord.enter] using (h.proven i).settle_none (by simp [hd])
  | direct =>
    refine ⟨⟨?_, ?_, ?_, ?_, fun _ => hconf, fun _ => hm⟩, fun _ => hhealthy, fun _ => ⟨rfl, hquiet rfl⟩⟩
    · simp [State.restored, SectionRecord.enterSettling, SectionRecord.enter]
    · simp [State.restored, SectionRecord.enterSettling, SectionRecord.enter]
    · simp [State.restored, SectionRecord.enterSettling, SectionRecord.enter]
    · simpa [State.restored, SectionRecord.enterSettling, SectionRecord.enter, settleTimer_eq] using freshSettle_ne_none hconf

/-- Table 3-6: the sections set by a restart or an activation are DISTURBED, the unused ones still. -/
theorem SectionsSet.proven {c : SectionCause} {s t : State} (h : SectionsSet c s t) (hc : c ≠ .none) (hs : TrackSound s)
    (i : SectionIndex) : Proven t i (t.sect i) := by
  rw [h i]
  split
  · exact proven_of_disturbed rfl (Nat.zero_le _) hc rfl
  · rename_i hconf
    refine (hs.proven i).disturbed ?_
    by_contra hne
    exact hconf ((hs.proven i).configured hne)

theorem warmRestart_trackSound {s : State} (h : TrackSound s) : TrackSound (warmRestart s) := by
  have hspec := warmRestart_spec s
  refine (trackSound_iff _).2 ⟨⟨?_, ?_, ?_, fun hm => ?_⟩,
    hspec.sections.proven (by cases s.tables.activated <;> simp) h⟩
  · rw [hspec.tables]
    cases s.tables.activated <;> simp
  · exact fun hl => absurd (warmRestart_load s) hl
  · simp [hspec.requests]
  · have hact : s.tables.activated = true := by
      by_contra hna
      rw [hspec.tables] at hm
      simp [hna] at hm
    exact sideMapSound_congr (h.sideMap (h.activated.1 hact)) (by rw [hspec.tables]) hspec.sideMap

/-- R49: every configured section is DISTURBED(CONFIG) with count 0. -/
theorem sectionsToConfig_sect (s : State) (i : SectionIndex) :
    (sectionsToConfig s).sect i = if s.sectionConfigured i then (s.sect i).toConfig else s.sect i := by
  unfold sectionsToConfig
  dsimp only
  split <;> simp [State.sect]

theorem enterConfig_sect (s : State) (i : SectionIndex) :
    (enterConfig s).sect i = if s.sectionConfigured i then (s.sect i).toConfig else s.sect i := by
  have hsect : (enterConfig s).sect i = (sectionsToConfig s.inConfig).sect i := sect_congr (by simp [enterConfig_eq]) i
  have hbefore : s.inConfig.sect i = s.sect i := sect_congr (by simp) i
  rw [hsect, sectionsToConfig_sect, sectionConfigured_congr (s := s) (by simp), hbefore]

theorem proven_toConfig (s : State) (i : SectionIndex) (r : SectionRecord) : Proven s i r.toConfig := by
  unfold SectionRecord.toConfig
  split
  · exact proven_of_disturbed ‹_› (Nat.zero_le _) (by simp) rfl
  · exact proven_of_disturbed rfl (Nat.zero_le _) (by simp [SectionRecord.enterDisturbed]) rfl

theorem enterConfig_trackSound {s : State} (ha : s.requests.activation = none) (h : TrackSound s) :
    TrackSound (enterConfig s) := by
  refine (trackSound_iff _).2 ⟨⟨by simp [enterConfig_eq], by simp [enterConfig_eq, ha], by simp [enterConfig_eq],
    by simp [enterConfig_eq]⟩, fun i => ?_⟩
  rw [enterConfig_sect]
  split
  · exact proven_toConfig _ i _
  · rename_i hconf
    refine (h.proven i).disturbed ?_
    by_contra hne
    exact hconf ((h.proven i).configured hne)

theorem startSections_sectionsSet (c : SectionCause) (s : State) : SectionsSet c s (startSections c s) := fun i => by
  rw [startSections, sect_congr (s := setAllSections c s) (by simp)]
  simp [State.sect, setAllSections]

/-- R48: an activation sets every configured section DISTURBED(START). -/
theorem activateTables_sectionsSet (v : BitVec 16) (s : State) : SectionsSet .start s (activateTables v s) := fun i => by
  let u := resetPoints .starting (buildSideMap (s.inStartUp v))
  have hsect : (activateTables v s).sect i = (startSections .start u).sect i := sect_congr (by simp [activateTables_eq, u]) i
  have hbefore : u.sect i = s.sect i := sect_congr (by simp [u]) i
  rw [hsect, startSections_sectionsSet .start u i, sectionConfigured_congr (s := s) (by simp [u]), hbefore]

theorem activateTables_sideMapSound {s : State} (v : BitVec 16) (h : s.validate = none) :
    SideMapSound (activateTables v s) := by
  refine sideMapSound_of_valid h (by simp [activateTables_eq]) ?_
  simp [activateTables_eq, startSections]
  rfl

/-- Table 3-6: at a LOAD_CLOSE of SECTIONS every record is set. -/
theorem closeLoad_sections_sect (es : List SectionEntry) (s : State) (i : SectionIndex) :
    (closeLoad (.sections es) s).sect i =
      { state := .disturbed, count := 0, serial := (s.sect i).serial, cause := .config, settle := none } := by
  have hsect : (closeLoad (.sections es) s).sect i
      = (setSectionsAtLoad { s.setLoad none with tables := { (s.setLoad none).tables with sections := es } }).sect i :=
    sect_congr (by simp [closeLoad]) i
  rw [hsect]
  simp [setSectionsAtLoad, State.sect]

theorem closeLoad_trackSound {l : Load} {s : State} (hl : s.tables.load = some l) (h : TrackSound s) :
    TrackSound (closeLoad l.staged s) := by
  obtain ⟨hmode, hact⟩ := h.load (by simp [hl])
  refine (trackSound_iff _).2 ⟨⟨by simpa using h.activated, by simp [hmode, hact], by simp [hact], by simp [hmode]⟩,
    fun i => ?_⟩
  have hd := fun t => (h.proven i).disturbed (t := t) (h.disturbed (by simp [hmode]) i)
  cases l.staged with
  | points es => exact sect_congr (s := s) (t := closeLoad (.points es) s) (by simp [closeLoad]) i ▸ hd _
  | sections es =>
    rw [closeLoad_sections_sect]
    exact proven_of_disturbed rfl (Nat.zero_le _) (by simp) rfl
  | parameters es => exact sect_congr (s := s) (t := closeLoad (.parameters es) s) (by simp [closeLoad]) i ▸ hd _

theorem endActivation_trackSound {a : Activation} {s : State} (ha : s.requests.activation = some a) (h : TrackSound s) :
    TrackSound (endActivation a s) := by
  have hload : s.tables.load = none := by
    by_contra hl
    exact absurd (ha.symm.trans (h.load hl).2) (by simp)
  unfold endActivation
  split
  · exact h.tables (by simp) (by simp [hload]) (by simp [answerActivation])
  · rename_i hv
    have hmap : SideMapSound (answerActivation a .done (twoBytes a.version.toNat) (activateTables a.version s)) :=
      sideMapSound_congr (activateTables_sideMapSound a.version hv) (by simp) (by simp)
    refine (trackSound_iff _).2 ⟨⟨by simp [activateTables_eq], by simp [hload], by simp [answerActivation], fun _ => hmap⟩,
      fun i => ?_⟩
    have hset := (activateTables_sectionsSet a.version s).proven (by simp) h i
    rw [sect_congr (s := activateTables a.version s) (by simp)]
    exact hset.calmer (by simp) (Calmer.of_points (by simp))

theorem powerOn_trackSound (pins : Byte) (s : State) : TrackSound (powerOn pins s) := by
  refine (trackSound_iff _).2 ⟨⟨by simp [powerOn, State.reset], by simp [powerOn, State.reset],
    by simp [powerOn, State.reset], by simp [powerOn, State.reset]⟩, fun i => ?_⟩
  have hsect : (powerOn pins s).sect i = SectionRecord.atPowerOn := by simp [powerOn, State.reset, State.sect]
  rw [hsect]
  exact proven_of_disturbed rfl (Nat.zero_le _) (by simp [SectionRecord.atPowerOn]) rfl

theorem trackSound_kept : Kept TrackSound := by
  constructor
  case powerOn => exact fun pins s _ => powerOn_trackSound pins s
  case warmRestart => exact fun s => warmRestart_trackSound
  case assertPwron => exact fun s h => h.tables (by simp) (by simp) (by simp [assertPwron])
  case snoopHead => exact fun _ _ => snoopHead_trackSound
  case snoopReport => exact fun _ _ => snoopReport_trackSound
  case clearSuspect => exact fun p s _ h => h.setPoint fun hh => ⟨hh, id⟩
  case restore => exact fun _ _ _ => restore_trackSound
  case enterConfig => exact fun s _ => enterConfig_trackSound
  case openLoad => exact fun _ _ _ s hm _ ha _ h => h.tables (by simp) (fun _ => ⟨hm, by simpa using ha⟩) (by simp [ha])
  case keepLoad => exact fun l s hl h => h.tables (by simp) (by simpa using h.load (by simp [hl])) (by simpa using h.activation)
  case dropLoad => exact fun s h => h.tables (by simp) (by simp) (by simpa using h.activation)
  case stage =>
    exact fun l ps s hl _ _ h => h.tables (by simp) (by simpa using h.load (by simp [hl])) (by simpa using h.activation)
  case closeLoad => exact fun l s hl _ => closeLoad_trackSound hl
  case beginActivation => exact fun a s hm hl _ _ h => h.tables (by simp) (fun hn => absurd hl hn) fun _ => hm
  case applyRecord => exact fun r s _ h => applyRecord_trackSound (h.congr (by simp))
  case takeRequest => exact fun _ _ _ => takeRequest_trackSound
  case supervision => exact fun _ _ _ => supervisionExpired_trackSound
  case startLimit => exact fun s hd => startLimitExpired_trackSound (by simp [State.startLimitDue] at hd; exact hd.1)
  case settle => exact fun _ _ => settle_trackSound
  case compare => exact fun i s _ h => (h.congr (t := s.setCompare i none) (by simp)).disturb (by simp) i
  case transmissionEnd =>
    exact fun t c s h => transmissionEnd_induction (h.congr (by simp)) (h.congr (by simp))
      (fun u => warmRestart_trackSound) c
  case activationEnd => exact fun _ _ => endActivation_trackSound
  all_goals
    intros
    exact TrackSound.congr ‹TrackSound _› (by simp)

/-- Settles O57: every action keeps the proof of CLEAR, and the arbiter does not touch it. -/
theorem trackIsSound : Obligations.TrackIsSound :=
  trackSound_kept.step fun _ h => h.congr (by simp)

end Sys2Proof.Machine
end

section
/-! PROOFS. The step, power, reset and restart (10.7, 10.8): commands and time, the idle part, PWRON and WARM, and the state
after reset. -/

namespace Sys2Proof.Machine

/-! ## The guards of a command -/

theorem powered_of_off {s t : State} (h : s.pwron = false) : powered s t = .next t := by simp [powered, h]

theorem powered_of_on {s t : State} (h : s.pwron = true) : powered s t = .next s := by simp [powered, h]

theorem powered_completes (s u : State) : ∃ t, powered s u = .next t := by
  unfold powered
  split
  · exact ⟨s, rfl⟩
  · exact ⟨u, rfl⟩

theorem onlyIf_of {c : Bool} {s t : State} (h : c = true) : onlyIf c s t = t := by simp [onlyIf, h]

theorem onlyIf_of_not {c : Bool} {s t : State} (h : c = false) : onlyIf c s t = s := by simp [onlyIf, h]

/-- A command whose occasion exists has its effect. -/
theorem powered_onlyIf {c : Bool} {s t : State} (h : s.pwron = false) (hc : c = true) :
    powered s (onlyIf c s t) = .next t := by
  rw [powered_of_off h, onlyIf_of hc]

/-- A command whose occasion does not exist has none (log 2). -/
theorem powered_onlyIf_not {c : Bool} {s t : State} (h : s.pwron = false) (hc : c = false) :
    powered s (onlyIf c s t) = .next s := by
  rw [powered_of_off h, onlyIf_of_not hc]

/-! ## Commands and time (O1, O2, O3) -/

/-- Settles O1: by definition of the step. -/
theorem stepRunsFrontCommand : Obligations.StepRunsFrontCommand := fun _ _ _ => rfl

theorem exec_completes {c : Instr} (s : State) (h : c.wellFormed = true) : ∃ t, exec c s = .next t := by
  cases c
  case powerOnReset | warmRestart | pwronAsserted | warmReleased => exact ⟨_, rfl⟩
  case startBit d g =>
    simp only [exec, execStartBit]
    repeat' split
    all_goals exact ⟨_, rfl⟩
  case completesReception =>
    simp only [exec, execCompletesReception]
    split
    all_goals exact ⟨_, rfl⟩
  case supervisionExpiry p =>
    simp only [exec, execSupervisionExpiry, dif_pos (show p < 48 by simpa [Instr.wellFormed] using h)]
    exact powered_completes _ _
  case settleTimerExpiry i =>
    simp only [exec, execSettleTimerExpiry, dif_pos (show i < 32 by simpa [Instr.wellFormed] using h)]
    exact powered_completes _ _
  case compareTimerExpiry i =>
    simp only [exec, execCompareTimerExpiry, dif_pos (show i < 32 by simpa [Instr.wellFormed] using h)]
    exact powered_completes _ _
  all_goals exact powered_completes _ _

/-- Settles O2: every command but the indexed ones always completes, and those are guarded by their index alone. -/
theorem commandsCompleteWithinThePart : Obligations.CommandsCompleteWithinThePart := by
  refine ⟨fun c s h => exec_completes s h, fun n s => ⟨fun h => ?_, fun h => ?_, fun h => ?_⟩⟩
  · simp only [exec, execSupervisionExpiry, dif_neg (show ¬n < 48 by omega)]
  · simp only [exec, execSettleTimerExpiry, dif_neg (show ¬n < 32 by omega)]
  · simp only [exec, execCompareTimerExpiry, dif_neg (show ¬n < 32 by omega)]

/-- The queue of commands and evaluator time are as they were. -/
def Timeless (s t : State) : Prop := t.pending = s.pending ∧ t.now = s.now

theorem Timeless.refl (s : State) : Timeless s s := ⟨rfl, rfl⟩

theorem Timeless.arbitrate {s t : State} (h : Timeless s t) : Timeless s (arbitrate t) := by
  simpa [Timeless] using h

theorem transmissionEnd_timeless (t : Telegram) (c : TxClass) (s : State) : Timeless s (transmissionEnd t c s) :=
  transmissionEnd_induction (P := Timeless s) ⟨rfl, rfl⟩ (by simp [Timeless]) (fun u h => by simpa [Timeless] using h) c

theorem completeReception_timeless (s : State) : Timeless s (completeReception s) := by
  unfold completeReception
  dsimp only
  split
  · exact Timeless.refl s
  · exact ⟨rfl, rfl⟩
  · exact Timeless.arbitrate (by simp [Timeless])

theorem warmAsserted_timeless (s : State) : Timeless s (warmAsserted s) := by
  unfold warmAsserted
  split
  · exact Timeless.refl s
  split
  · exact ⟨rfl, rfl⟩
  · exact Timeless.arbitrate (by simp [Timeless])

/-- Only the release of PWRON sets evaluator time. -/
theorem exec_timeless {c : Instr} {s t : State} (hc : ∀ pins, c ≠ .powerOnReset pins) (he : exec c s = .next t) :
    Timeless s t := by
  have hocc : ∀ {b : Bool} {u : State}, Timeless s u → powered s (onlyIf b s u) = .next t → Timeless s t :=
    fun hu h => powered_kept (Timeless.refl s) (onlyIf_kept (Timeless.refl s) fun _ => hu) h
  have harb : ∀ {b : Bool} {u : State}, Timeless s u → powered s (onlyIf b s (arbitrate u)) = .next t → Timeless s t :=
    fun hu h => hocc hu.arbitrate h
  cases c <;> simp only [exec] at he
  case powerOnReset pins => exact absurd rfl (hc pins)
  case warmRestart => cases he; exact warmAsserted_timeless s
  case lineDown => exact harb (by simp [Timeless]) he
  case lineUp d g => exact hocc (by simp [Timeless]) he
  case ringInFree => exact harb (by simp [Timeless]) he
  case completesReception =>
    unfold execCompletesReception at he
    split at he <;> cases he
    · exact ⟨rfl, rfl⟩
    · exact completeReception_timeless s
  case recordTake => exact hocc (by simp [Timeless]) he
  case recordApply =>
    refine powered_kept (Timeless.refl s) ?_ he
    unfold applyTaken
    split
    · exact Timeless.refl s
    · exact Timeless.arbitrate (by simp [Timeless])
  case skipOrSuspectRequestTaken =>
    refine powered_kept (Timeless.refl s) ?_ he
    unfold requestTaken
    split
    · exact Timeless.refl s
    · exact Timeless.arbitrate (by simp [Timeless])
  case supervisionExpiry p =>
    unfold execSupervisionExpiry at he
    split at he
    · exact harb (by simp [Timeless]) he
    · cases he
  case startUpLimitExpiry => exact harb (by simp [Timeless]) he
  case settleTimerExpiry i =>
    unfold execSettleTimerExpiry at he
    split at he
    · exact harb (by simp [Timeless]) he
    · cases he
  case peerSilenceExpiry => exact hocc (by simp [Timeless]) he
  case compareTimerExpiry i =>
    unfold execCompareTimerExpiry at he
    split at he
    · exact harb (by simp [Timeless]) he
    · cases he
  case cycleStep => exact harb (by simp [Timeless]) he
  case holdTimerExpiry => exact harb (by simp [Timeless]) he
  case transmissionEnd =>
    refine powered_kept (Timeless.refl s) ?_ he
    unfold sendingEnded
    split
    · exact transmissionEnd_timeless _ _ s
    · exact Timeless.refl s
  case transmitterGapEnd => exact harb (u := { s with ring := { s.ring with tx := .idle } }) ⟨rfl, rfl⟩ he
  case watchRecordExpiry => exact hocc (by simp [Timeless]) he
  case loadIdleTimeout => exact hocc (by simp [Timeless]) he
  case activationEnd =>
    refine powered_kept (Timeless.refl s) ?_ he
    unfold activationEnded
    split
    · exact Timeless.refl s
    · exact Timeless.arbitrate (by simp [Timeless])
  case pwronAsserted => cases he; exact ⟨rfl, rfl⟩
  case startBit d g =>
    unfold execStartBit at he
    repeat' split at he
    all_goals cases he; exact ⟨rfl, rfl⟩
  case warmReleased => cases he; exact ⟨rfl, rfl⟩

/-- Settles O3: the release of PWRON keeps the queue by definition, every other command by `exec_timeless`. -/
theorem commandsKeepQueueAndTime : Obligations.CommandsKeepQueueAndTime := by
  refine fun c s t he => ⟨?_, fun hc => (exec_timeless hc he).2⟩
  by_cases hc : ∀ pins, c ≠ .powerOnReset pins
  · exact (exec_timeless hc he).1
  · push Not at hc
    obtain ⟨pins, rfl⟩ := hc
    cases he
    rfl

/-! ## The idle part (O4) -/

section
variable {s : State}

theorem due_iff (m : Timer) (now : Time) : m.due now = true ↔ m.length ≤ (now - m.start).toNat := by
  rw [Timer.due, decide_eq_true_eq, Timer.elapsed]

theorem supervisionDue_iff {p : PointIndex} : s.supervisionDue p = true ↔
    ((s.point p).status = .healthy ∨ (s.point p).status = .faulted)
      ∧ ∃ m, (s.point p).supervision = some m ∧ m.length ≤ (s.now - m.start).toNat := by
  simp only [State.supervisionDue, Bool.and_eq_true, Bool.or_eq_true, decide_eq_true_eq, timerDue_iff]

theorem settleDue_iff {i : SectionIndex} : s.settleDue i = true ↔
    (s.sect i).state = .settling ∧ ∃ m, (s.sect i).settle = some m ∧ m.length ≤ (s.now - m.start).toNat := by
  simp only [State.settleDue, Bool.and_eq_true, decide_eq_true_eq, timerDue_iff]

theorem compareDue_iff {i : SectionIndex} : s.compareDue i = true ↔
    ∃ m, s.compareTimer i = some m ∧ m.length ≤ (s.now - m.start).toNat := timerDue_iff _ _

theorem startLimitDue_iff : s.startLimitDue = true ↔
    s.tables.mode = .startUp ∧ ∃ m, s.tables.startLimit = some m ∧ m.length ≤ (s.now - m.start).toNat := by
  simp only [State.startLimitDue, Bool.and_eq_true, decide_eq_true_eq, timerDue_iff]

theorem silenceDue_iff : s.silenceDue = true ↔ ∃ m, s.peer.silence = some m ∧ m.length ≤ (s.now - m.start).toNat :=
  timerDue_iff _ _

theorem reportingActive_iff : s.reportingActive = true ↔ s.tables.params ≠ none ∧ s.tables.sections ≠ [] := by
  simp [State.reportingActive, Option.isSome_iff_ne_none]

theorem cycleDue_iff : s.cycleDue = true ↔
    s.tables.params ≠ none ∧ s.tables.sections ≠ []
      ∧ ∃ m, s.reports.cycleTimer = some m ∧ m.length ≤ (s.now - m.start).toNat := by
  simp only [State.cycleDue, Bool.and_eq_true, reportingActive_iff, timerDue_iff, and_assoc]

theorem holdDue_iff : s.holdDue = true ↔
    ∃ m, s.reports.hold = .running m ∧ m.length ≤ (s.now - m.start).toNat := by
  unfold State.holdDue
  cases s.reports.hold <;> simp [due_iff, -BitVec.toNat_sub]

theorem watchDue_iff : s.watchDue = true ↔
    ∃ w rest, s.ring.watch = w :: rest
      ∧ (match s.tables.params with | none => 255 | some r => r.roundTripLimit) < (s.now - w.sendTime).toNat := by
  have hlimit : s.roundTripLimit = match s.tables.params with | none => 255 | some r => r.roundTripLimit := rfl
  rw [← hlimit]
  unfold State.watchDue
  cases s.ring.watch <;> simp [-BitVec.toNat_sub]

theorem loadIdleDue_iff : s.loadIdleDue = true ↔
    ∃ l, s.tables.load = some l ∧ l.idle.length ≤ (s.now - l.idle.start).toNat := by
  unfold State.loadIdleDue
  cases s.tables.load <;> simp [due_iff, -BitVec.toNat_sub]

theorem activationDue_iff : s.activationDue = true ↔
    ∃ a, s.requests.activation = some a ∧ 40 ≤ (s.now - a.began).toNat := by
  unfold State.activationDue
  cases s.requests.activation <;> simp [-BitVec.toNat_sub]

theorem mem_whenDue {b : Bool} {c d : Instr} : c ∈ whenDue b d ↔ b = true ∧ c = d := by
  cases b <;> simp [whenDue]

/-- The ten expiries, each with its occasion. -/
theorem mem_dueCommands {c : Instr} : c ∈ s.dueCommands ↔
    (∃ p : PointIndex, s.supervisionDue p = true ∧ Instr.supervisionExpiry p.val = c)
      ∨ (s.startLimitDue = true ∧ c = .startUpLimitExpiry)
      ∨ (∃ i : SectionIndex, s.settleDue i = true ∧ Instr.settleTimerExpiry i.val = c)
      ∨ (s.silenceDue = true ∧ c = .peerSilenceExpiry)
      ∨ (∃ i : SectionIndex, s.compareDue i = true ∧ Instr.compareTimerExpiry i.val = c)
      ∨ (s.cycleDue = true ∧ c = .cycleStep)
      ∨ (s.holdDue = true ∧ c = .holdTimerExpiry)
      ∨ (s.watchDue = true ∧ c = .watchRecordExpiry)
      ∨ (s.loadIdleDue = true ∧ c = .loadIdleTimeout)
      ∨ (s.activationDue = true ∧ c = .activationEnd) := by
  simp only [State.dueCommands, List.mem_append, mem_whenDue, List.mem_map, List.mem_filter, List.mem_finRange, true_and,
    or_assoc]

theorem idle_of_due (hp : s.pwron = false) (hd : s.dueCommands ≠ []) :
    ∃ c ∈ s.dueCommands, ∃ n, idle s = { s with pending := [c], freeCount := n } := by
  simp only [idle, hp, Bool.false_eq_true, if_false]
  split
  · exact absurd ‹_› hd
  · rename_i c hc
    exact ⟨c, by simp [hc], s.freeCount, rfl⟩
  · rename_i c d rest hc
    rw [hc]
    refine ⟨_, ?_, _, rfl⟩
    have hlt : Config.freeChoice s.freeCount % (rest.length + 2) < (c :: d :: rest).length :=
      Nat.mod_lt _ (by omega)
    rw [List.getD_eq_getElem _ _ hlt]
    exact List.getElem_mem hlt

end

/-- Settles O4: what the idle part does, and the occasion of each expiry. -/
theorem idleStepTicksOrRaises : Obligations.IdleStepTicksOrRaises := by
  intro s hpending
  have hstep : step s = .next (idle s) := by simp [step, hpending]
  rw [hstep]
  refine ⟨fun hp => ?_, fun hp hd => ?_, fun hp hd => ?_, fun p => ?_, fun i => ?_, fun i => ?_, ?_, ?_, ?_, ?_, ?_, ?_, ?_,
    fun c hc => ?_⟩
  · simp [idle, hp]
  · simp [idle, hp, hd, tick]
  · obtain ⟨c, hc, n, e⟩ := idle_of_due hp hd
    exact ⟨c, hc, n, by rw [e]⟩
  · rw [← supervisionDue_iff]
    simp [mem_dueCommands, ← Fin.ext_iff]
  · rw [← settleDue_iff]
    simp [mem_dueCommands, ← Fin.ext_iff]
  · rw [← compareDue_iff]
    simp [mem_dueCommands, ← Fin.ext_iff]
  · rw [← startLimitDue_iff]
    simp [mem_dueCommands]
  · rw [← silenceDue_iff]
    simp [mem_dueCommands]
  · rw [← cycleDue_iff]
    simp [mem_dueCommands]
  · rw [← holdDue_iff]
    simp [mem_dueCommands]
  · refine Iff.trans ?_ watchDue_iff
    simp [mem_dueCommands]
  · rw [← loadIdleDue_iff]
    simp [mem_dueCommands]
  · rw [← activationDue_iff]
    simp [mem_dueCommands]
  · rcases mem_dueCommands.1 hc with ⟨p, -, rfl⟩ | ⟨-, rfl⟩ | ⟨i, -, rfl⟩ | ⟨-, rfl⟩ | ⟨i, -, rfl⟩ | ⟨-, rfl⟩ | ⟨-, rfl⟩
      | ⟨-, rfl⟩ | ⟨-, rfl⟩ | ⟨-, rfl⟩
    case inl => exact .inl ⟨p, rfl⟩
    case inr.inr.inl => exact .inr (.inl ⟨i, rfl⟩)
    case inr.inr.inr.inr.inl => exact .inr (.inr (.inl ⟨i, rfl⟩))
    all_goals exact .inr (.inr (.inr (by simp)))

/-! ## ALARM (O43) -/

/-- Table 8-7: each of the 13 bits is that of a latch. -/
theorem exists_latch_bit {k : Nat} (h : k < 13) : ∃ l : Latch, l.bit = k := by
  have hbits : [Latch.pointFault, .sectionDisturbed, .peerLost, .peerConfig, .loopBroken, .forwardOverrun, .eventOverrun,
      .badTelegram, .requestDropped, .auth, .hopExpired, .warmRestart, .powerOn].map Latch.bit = List.range 13 := rfl
  have hk : k ∈ List.range 13 := List.mem_range.2 h
  rw [← hbits] at hk
  obtain ⟨l, -, hl⟩ := List.mem_map.1 hk
  exact ⟨l, hl⟩

theorem ne_zero_iff_exists_getLsbD {w : Nat} (x : BitVec w) : x ≠ 0 ↔ ∃ k < w, x.getLsbD k = true := by
  constructor
  · intro h
    by_contra hno
    push Not at hno
    exact h (BitVec.eq_of_getLsbD_eq fun k hk => by simpa using hno k hk)
  · rintro ⟨k, -, hk⟩ rfl
    simp at hk

/-- Settles O43: a latch that is enabled is a bit that the latches and the mask share. -/
theorem alarmFollowsLatchesAndMask : Obligations.AlarmFollowsLatchesAndMask := by
  intro s
  simp only [State.alarm, bne_iff_ne, ne_zero_iff_exists_getLsbD, BitVec.getLsbD_and, Bool.and_eq_true, State.latch]
  constructor
  · rintro ⟨k, hk, hset⟩
    obtain ⟨l, rfl⟩ := exists_latch_bit hk
    exact ⟨l, hset⟩
  · rintro ⟨l, hset⟩
    exact ⟨l.bit, by cases l <;> decide, hset⟩

/-! ## PWRON and WARM (O5, O6, O7) -/

theorem discarded_eq (r : Reception) : r.discarded = if r = .ready then .ready else .skipping := by
  cases r <;> rfl

/-- Settles O5: every item has its value by definition. -/
theorem pwronReleaseSetsEveryItem : Obligations.PwronReleaseSetsEveryItem := by
  refine fun pins s => ⟨powerOn pins s, rfl, rfl, rfl, (by decide : State.reset.alarm = true), ?_, fun p => ?_,
    rfl, rfl, rfl, fun i => ?_, fun p => ?_,
    peerReset_spec (u := s) rfl, rfl, rfl, rfl, rfl, rfl, rfl, rfl⟩
  · rw [← discarded_eq]
    rfl
  · simp [powerOn, State.reset, State.point]
  · simp [powerOn, State.reset, State.sect, SectionRecord.atPowerOn]
  · simp [powerOn, State.reset, State.sides]

/-- R184: while PWRON is asserted a command keeps all but the level of WARM and what RING IN has under way. -/
theorem exec_of_asserted {c : Instr} {s t : State} (hp : s.pwron = true) (hc : ∀ pins, c ≠ .powerOnReset pins)
    (hc' : c ≠ .pwronAsserted) (he : exec c s = .next t) :
    t = { s with warm := t.warm, ring := { s.ring with reception := t.ring.reception } } := by
  have hguard : ∀ {u : State}, powered s u = .next t →
      t = { s with warm := t.warm, ring := { s.ring with reception := t.ring.reception } } := by
    intro u h
    rw [powered_of_on hp] at h
    cases h
    rfl
  cases c <;> simp only [exec] at he
  case powerOnReset pins => exact absurd rfl (hc pins)
  case pwronAsserted => exact absurd rfl hc'
  case warmRestart =>
    unfold execWarmRestart warmAsserted at he
    rw [if_pos hp] at he
    split at he <;> cases he <;> rfl
  case startBit d g =>
    rw [execStartBit, if_pos hp] at he
    cases he
    rfl
  case completesReception =>
    rw [execCompletesReception, if_pos hp] at he
    cases he
    rfl
  case warmReleased => cases he; rfl
  case supervisionExpiry p =>
    unfold execSupervisionExpiry at he
    split at he
    · exact hguard he
    · cases he
  case settleTimerExpiry i =>
    unfold execSettleTimerExpiry at he
    split at he
    · exact hguard he
    · cases he
  case compareTimerExpiry i =>
    unfold execCompareTimerExpiry at he
    split at he
    · exact hguard he
    · cases he
  all_goals exact hguard he

/-- Settles O6: the assertion by definition, the other commands by their guard. -/
theorem assertedPwronStopsThePart : Obligations.AssertedPwronStopsThePart := by
  refine ⟨fun s => ⟨assertPwron s, rfl, ?_, rfl, discarded_eq _⟩, fun c s t hp hc hc' he => exec_of_asserted hp hc hc' he⟩
  simp [State.alarm, assertPwron]

/-- A warm restart raises ALARM. -/
theorem WarmRestarts.alarm {s t : State} (h : WarmRestarts s t) : t.alarm = true := by
  rw [State.alarm, h.attention]
  decide

/-- Settles O7: by `warmRestart_spec`. -/
theorem warmRestartSetsEveryItem : Obligations.WarmRestartSetsEveryItem := by
  refine fun s => ⟨fun hp hw => ?_, fun hw => ?_, fun hw hp => ?_, rfl⟩
  · refine ⟨warmRestart { s with warm := true }, ?_, warmRestart_spec _, (warmRestart_spec _).alarm⟩
    simp [exec, execWarmRestart, warmAsserted, hp, hw]
  · simp [exec, execWarmRestart, warmAsserted, hw]
  · simp [exec, execWarmRestart, warmAsserted, hp, hw]

/-! ## Reset (O60) -/

/-- Settles O60: reset is the release of PWRON with pins 12, in a part that has drawn nothing. -/
theorem resetIsSound : Obligations.ResetIsSound := by
  have hreset : State.reset = powerOn 12 State.reset := rfl
  have hpoint : ∀ p, State.reset.point p = PointRecord.initial .unused := fun p => by simp [State.reset, State.point]
  have hsect : ∀ i, State.reset.sect i = { state := .disturbed, count := 0, serial := 0, cause := .config, settle := none } :=
    fun i => by simp [State.reset, State.sect, SectionRecord.atPowerOn]
  have hpeer : PeerReset State.reset := peerReset_spec (u := State.reset) rfl
  have hbuffers : BuffersSound State.reset := by constructor <;> simp [State.reset]
  have hpoints : PointsSound State.reset :=
    pointsSound_of_reset (.inl rfl) (fun p => by rw [hpoint]; simp [State.reset, State.pointConfigured]) rfl
  exact ⟨⟨hreset ▸ powerOn_tablesSound 12 State.reset, hbuffers, hpoints, hreset ▸ powerOn_trackSound 12 State.reset,
    peerSound_of_reset hpeer fun hl => absurd rfl hl, hreset ▸ powerOn_settled 12 State.reset⟩, rfl, rfl, by decide, rfl, rfl,
    rfl, rfl, rfl, rfl, rfl, rfl, rfl, rfl, hpoint, rfl, hsect, hpeer, rfl, rfl⟩

end Sys2Proof.Machine
end

section
/-! PROOFS. RING IN (7.1 to 7.3, 8.1, 8.4): characters, breaks and quiet lines, frames and report payloads read back, and the
telegrams that reception drops. -/

namespace Sys2Proof.Machine

/-! ## Characters (O8, O10) -/

/-- R130: the first character after a break begins a telegram. -/
theorem lineUp_eq (d : Byte) (g : Bool) (s : State) :
    lineUp d g s =
      { s with
        ring := { s.ring with condition := .lineUp, activity := .receiving, reception := .collecting [d] (!g) false } } :=
  rfl

/-- Settles O8: the character is taken as `Reception.take` says, after a gap where the line was down. -/
theorem characterReceived : Obligations.CharacterReceived := by
  refine fun d g s hp => ⟨fun hup => ⟨s.ring.reception.take d g, ?_, ?_, ?_, ?_⟩, fun hdown c hc => ?_, fun hup => ?_⟩
  · simp [exec, execStartBit, hp, hup, startBit]
  · intro hr
    rw [hr]
    rfl
  · intro hr
    rw [hr]
    rfl
  · intro bytes bad long hr
    rw [hr]
    rfl
  · rw [← lineUp_eq]
    rcases hc with rfl | rfl
    · simp [exec, execStartBit, hp, hdown]
    · exact powered_onlyIf hp (by simp [hdown])
  · exact powered_onlyIf_not hp (by simp [hup])

/-- A good telegram in reception, with these bytes so far. -/
def State.hearing (s : State) (bytes : List Byte) : State :=
  { s with ring := { s.ring with activity := .receiving, reception := .collecting bytes false false } }

section
variable {s : State}

/-- R131: below 36 bytes a good character joins. -/
theorem step_hearing (hp : s.pwron = false) (hup : s.ring.condition = .lineUp) {bytes : List Byte} (hlt : bytes.length < 36)
    (b : Byte) (q : List Instr) :
    step { s.hearing bytes with pending := .startBit b true :: q } = .next { s.hearing (bytes ++ [b]) with pending := q } := by
  simp [step, exec, execStartBit, State.hearing, hp, hup, startBit, Reception.take, collect, hlt]

theorem step_ready (hp : s.pwron = false) (hup : s.ring.condition = .lineUp) (hr : s.ring.reception = .ready)
    (b : Byte) (q : List Instr) :
    step { s with pending := .startBit b true :: q } = .next { s.hearing [b] with pending := q } := by
  simp [step, exec, execStartBit, State.hearing, hp, hup, hr, startBit, Reception.take, collect]

theorem run_hearing (hp : s.pwron = false) (hup : s.ring.condition = .lineUp) (rest bytes : List Byte)
    (hle : bytes.length + rest.length ≤ 36) :
    Host.Core.run Sys2Proof.core rest.length { s.hearing bytes with pending := rest.map fun b => Instr.startBit b true } =
      .next { s.hearing (bytes ++ rest) with pending := [] } := by
  induction rest generalizing bytes with
  | nil => simp [Host.Core.run]
  | cons b rest ih =>
    rw [List.length_cons] at hle
    have hstep := step_hearing hp hup (bytes := bytes) (by omega) b (rest.map fun b => Instr.startBit b true)
    have hrest := ih (bytes ++ [b]) (by simp; omega)
    rw [List.append_assoc, List.singleton_append] at hrest
    simp only [List.length_cons, List.map_cons, Host.Core.run, Host.Check.core_step, hstep]
    exact hrest

end

/-- Settles O10: the first character begins the telegram, and the others join it one after another. -/
theorem telegramArrivesCharacterByCharacter : Obligations.TelegramArrivesCharacterByCharacter := by
  intro bytes s hp hup hr h1 h36
  cases bytes with
  | nil => simp at h1
  | cons b rest =>
    simp only [List.length_cons, List.map_cons, Host.Core.run, Host.Check.core_step, step_ready hp hup hr b]
    rw [List.length_cons] at h36
    exact run_hearing hp hup rest [b] (by simp; omega)

/-! ## Breaks and quiet lines (O9) -/

/-- R130: what a break leaves. -/
theorem lineDown_eq (s : State) :
    lineDown s =
      { s with
        ring := { s.ring with condition := .lineDown, activity := .free, reception := .ready, loop := .broken }
        attention :=
          { s.attention with
            latches :=
              s.attention.latches
                ||| (if s.ring.reception = .ready ∨ s.ring.reception = .skipping then 0 else Latch.badTelegram.mask)
                ||| (if s.ring.loop = .intact then Latch.loopBroken.mask else 0) } } := by
  simp only [lineDown, breakLoop_eq, closeBad_eq]

/-- Settles O9. -/
theorem lineMonitorFollowsRingIn : Obligations.LineMonitorFollowsRingIn := by
  refine fun s hp => ⟨fun hup => ?_, fun hdown => ?_, fun hup hr => ?_, fun hno => ?_⟩
  · rw [← lineDown_eq]
    exact powered_onlyIf hp (by simp [hup])
  · exact powered_onlyIf_not hp (by simp [hdown])
  · refine powered_onlyIf hp ?_
    rcases hr with hr | hr <;> simp [State.mayBeFree, hup, hr]
  · refine powered_onlyIf_not hp ?_
    rcases hno with hdown | ⟨bytes, badStop, tooLong, hr⟩
    · simp [State.mayBeFree, hdown]
    · simp [State.mayBeFree, hr]

/-! ## Numbers and codes as bytes -/

theorem byte_toNat (b : Byte) : byte b.toNat = b := by simp [byte]

theorem toNat_byte {n : Nat} (h : n < 256) : (byte n).toNat = n := by
  rw [byte, BitVec.toNat_ofNat]
  exact Nat.mod_eq_of_lt h

theorem ofTwoBytes_lt (hi lo : Byte) : ofTwoBytes hi lo < 65536 := by
  have := hi.isLt
  have := lo.isLt
  unfold ofTwoBytes
  omega

/-- Two bytes carry a number below 65536 whole, in both directions. -/
theorem twoBytes_eq_iff {hi lo : Byte} {n : Nat} (h : n < 65536) : twoBytes n = [hi, lo] ↔ ofTwoBytes hi lo = n := by
  have hhi := hi.isLt
  have hlo := lo.isLt
  simp only [twoBytes, List.cons.injEq, and_true, ofTwoBytes, ← BitVec.toNat_inj, byte, BitVec.toNat_ofNat]
  omega

theorem twoBytes_ofTwoBytes (hi lo : Byte) : twoBytes (ofTwoBytes hi lo) = [hi, lo] :=
  (twoBytes_eq_iff (ofTwoBytes_lt hi lo)).2 rfl

theorem exists_twoBytes (n : Nat) : ∃ hi lo, twoBytes n = [hi, lo] := ⟨_, _, rfl⟩

/-- Table 8-3 read back. -/
theorem stateOfCode_iff {b : Byte} {x : SectionState} : SectionState.ofCode b = some x ↔ b = x.code := by
  constructor
  · intro h
    unfold SectionState.ofCode at h
    split at h <;> cases h
    all_goals exact BitVec.eq_of_toNat_eq ‹_›
  · rintro rfl
    cases x <;> rfl

/-- Table 8-4 read back. -/
theorem causeOfCode_iff {b : Byte} {x : SectionCause} : SectionCause.ofCode b = some x ↔ b = x.code := by
  constructor
  · intro h
    unfold SectionCause.ofCode at h
    split at h <;> cases h
    all_goals exact BitVec.eq_of_toNat_eq ‹_›
  · rintro rfl
    cases x <;> rfl

theorem sectionOfByte_iff {b : Byte} {i : SectionIndex} : sectionOfByte b = some i ↔ b = byte i.val := by
  have hi := i.isLt
  unfold sectionOfByte
  constructor
  · intro h
    split at h <;> cases h
    exact (byte_toNat b).symm
  · rintro rfl
    have e : (byte i.val).toNat = i.val := toNat_byte (by omega)
    simp [e]

theorem pointOfByte_iff {b : Byte} {p : PointIndex} : pointOfByte b = some p ↔ b = byte p.val := by
  have hp := p.isLt
  unfold pointOfByte
  constructor
  · intro h
    split at h <;> cases h
    exact (byte_toNat b).symm
  · rintro rfl
    have e : (byte p.val).toNat = p.val := toNat_byte (by omega)
    simp [e]

/-! ## Frames (Table 8-1) -/

theorem lengthByte_toNat {t : Telegram} (h : t.payload.length ≤ 28) : t.lengthByte.toNat = t.payload.length :=
  toNat_byte (by omega)

/-- Table 8-1 read back: the bytes of a telegram are read as that telegram and as no other. -/
theorem ofBytes_iff {bytes : List Byte} {t : Telegram} :
    Telegram.ofBytes bytes = some t ↔ bytes = t.toBytes ∧ t.payload.length ≤ 28 := by
  constructor
  · intro h
    unfold Telegram.ofBytes at h
    split at h
    case h_2 => cases h
    case h_1 k d c q hop l rest =>
      split at h
      case isFalse => cases h
      case isTrue hl =>
        split at h
        case h_2 => cases h
        case h_1 hi lo hdrop =>
          cases h
          have hlen : (rest.take l.toNat).length = l.toNat := by simp; omega
          refine ⟨?_, hlen.trans_le hl.1⟩
          have hcrc : twoBytes (BitVec.ofNat 16 (ofTwoBytes hi lo)).toNat = [hi, lo] := by
            rw [BitVec.toNat_ofNat, Nat.mod_eq_of_lt (ofTwoBytes_lt hi lo), twoBytes_ofTwoBytes]
          simp only [Telegram.toBytes, Telegram.lengthByte, hlen, byte_toNat, hcrc, ← hdrop, List.take_append_drop,
            List.cons_append, List.nil_append]
  · rintro ⟨rfl, h28⟩
    obtain ⟨hi, lo, hcrc⟩ := exists_twoBytes t.crc.toNat
    have hread : ofTwoBytes hi lo = t.crc.toNat := (twoBytes_eq_iff t.crc.isLt).1 hcrc
    have hbytes : t.toBytes = t.kind :: t.destination :: t.source :: t.seq :: t.hopBudget :: t.lengthByte ::
        (t.payload ++ [hi, lo]) := by simp [Telegram.toBytes, hcrc]
    simp [hbytes, Telegram.ofBytes, lengthByte_toNat h28, h28, hread]

/-- R131, R132: a good telegram is a frame with its own CRC. -/
theorem receiveChecks_iff {bytes : List Byte} {badStop tooLong : Bool} {t : Telegram} :
    receiveChecks bytes badStop tooLong = some t ↔
      badStop = false ∧ tooLong = false ∧ bytes = t.toBytes ∧ t.payload.length ≤ 28 ∧ t.crc = t.properCrc := by
  unfold receiveChecks
  cases badStop <;> cases tooLong <;> simp only [Bool.or_true, Bool.or_false, Bool.false_eq_true, if_false, if_true, true_and,
    false_and, reduceCtorEq, Bool.true_eq_false]
  rw [← and_assoc, ← ofBytes_iff]
  cases Telegram.ofBytes bytes with
  | none => simp
  | some u =>
    simp only [Option.ite_none_right_eq_some, Option.some.injEq]
    constructor
    · rintro ⟨hcrc, rfl⟩
      exact ⟨rfl, hcrc⟩
    · rintro ⟨rfl, hcrc⟩
      exact ⟨hcrc, rfl⟩

/-! ## Report payloads (Table 8-11) -/

/-- The six bytes of an entry. -/
theorem entry_toBytes_iff {i st hi lo sr ca : Byte} {e : ReportEntry} (h : e.count ≤ 1023) :
    [i, st, hi, lo, sr, ca] = e.toBytes ↔
      i = byte e.index.val ∧ st = e.state.code ∧ ofTwoBytes hi lo = e.count ∧ sr = e.serial ∧ ca = e.cause.code := by
  obtain ⟨x, y, hxy⟩ := exists_twoBytes e.count
  have hread : ofTwoBytes hi lo = e.count ↔ x = hi ∧ y = lo := by
    rw [← twoBytes_eq_iff (by omega), hxy]
    simp
  rw [hread]
  simp only [ReportEntry.toBytes, hxy, List.cons_append, List.nil_append, List.cons.injEq, and_true]
  constructor
  · rintro ⟨hi', hst, rfl, rfl, hsr, hca⟩
    exact ⟨hi', hst, ⟨rfl, rfl⟩, hsr, hca⟩
  · rintro ⟨hi', hst, ⟨rfl, rfl⟩, hsr, hca⟩
    exact ⟨hi', hst, rfl, rfl, hsr, hca⟩

theorem reportEntryOf_iff {i st hi lo sr ca : Byte} {e : ReportEntry} :
    reportEntryOf i st hi lo sr ca = some e ↔ [i, st, hi, lo, sr, ca] = e.toBytes ∧ e.count ≤ 1023 := by
  constructor
  · intro h
    unfold reportEntryOf at h
    split at h
    case h_2 => cases h
    case h_1 x y z hx hy hz =>
      split at h
      case isFalse => cases h
      case isTrue hn =>
        cases h
        exact ⟨(entry_toBytes_iff hn).2 ⟨sectionOfByte_iff.1 hx, stateOfCode_iff.1 hy, rfl, rfl, causeOfCode_iff.1 hz⟩, hn⟩
  · rintro ⟨h, hn⟩
    obtain ⟨hi', hst, hcount, hsr, hca⟩ := (entry_toBytes_iff hn).1 h
    simp [reportEntryOf, sectionOfByte_iff.2 hi', stateOfCode_iff.2 hst, causeOfCode_iff.2 hca, hcount, hn, hsr]

/-- One more entry is its six bytes before the rest. -/
theorem reportEntriesOf_succ {k : Nat} {bytes : List Byte} {es : List ReportEntry} :
    reportEntriesOf (k + 1) bytes = some es ↔
      ∃ e rest es', bytes = e.toBytes ++ rest ∧ e.count ≤ 1023 ∧ reportEntriesOf k rest = some es' ∧ es = e :: es' := by
  constructor
  · intro h
    unfold reportEntriesOf at h
    split at h
    case h_1 hk => omega
    case h_3 => cases h
    case h_2 n i st hi lo sr ca rest hk =>
      cases hk
      split at h
      case h_2 => cases h
      case h_1 e es' he hes =>
        cases h
        obtain ⟨hbytes, hn⟩ := reportEntryOf_iff.1 he
        exact ⟨e, rest, es', by rw [← hbytes]; rfl, hn, hes, rfl⟩
  · rintro ⟨e, rest, es', rfl, hn, hes, rfl⟩
    obtain ⟨x, y, hxy⟩ := exists_twoBytes e.count
    have hsix : e.toBytes = [byte e.index.val, e.state.code, x, y, e.serial, e.cause.code] := by
      simp [ReportEntry.toBytes, hxy]
    have he := reportEntryOf_iff.2 ⟨hsix.symm, hn⟩
    simp [hsix, reportEntriesOf, he, hes]

theorem reportEntriesOf_iff {k : Nat} {bytes : List Byte} {es : List ReportEntry} :
    reportEntriesOf k bytes = some es ↔
      bytes = es.flatMap ReportEntry.toBytes ∧ es.length = k ∧ ∀ e ∈ es, e.count ≤ 1023 := by
  induction k generalizing bytes es with
  | zero =>
    cases bytes with
    | nil => cases es <;> simp [reportEntriesOf]
    | cons b bytes => cases es <;> simp [reportEntriesOf]
  | succ k ih =>
    rw [reportEntriesOf_succ]
    constructor
    · rintro ⟨e, rest, es', rfl, hn, hes, rfl⟩
      obtain ⟨rfl, hlen, hcounts⟩ := ih.1 hes
      exact ⟨by simp, by simp [hlen], by simpa [hn] using hcounts⟩
    · rintro ⟨rfl, hlen, hcounts⟩
      cases es with
      | nil => simp at hlen
      | cons e es =>
        rw [List.forall_mem_cons] at hcounts
        exact ⟨e, es.flatMap ReportEntry.toBytes, es, by simp, hcounts.1, ih.2 ⟨rfl, by simpa using hlen, hcounts.2⟩, rfl⟩

/-- R150: a payload is read as a report exactly when it is that report laid out. -/
theorem reportOf_iff {payload : List Byte} {r : Report} : reportOf payload = some r ↔ CarriesReport payload r := by
  constructor
  · intro h
    unfold reportOf at h
    split at h
    case h_2 => cases h
    case h_1 hi lo k rest =>
      split at h
      case isFalse => cases h
      case isTrue hk =>
        split at h
        case h_1 => cases h
        case h_2 es hes =>
          cases h
          obtain ⟨rfl, hlen, hcounts⟩ := reportEntriesOf_iff.1 hes
          refine ⟨?_, by simpa [hlen] using hk, hcounts⟩
          have hv : twoBytes (BitVec.ofNat 16 (ofTwoBytes hi lo)).toNat = [hi, lo] := by
            rw [BitVec.toNat_ofNat, Nat.mod_eq_of_lt (ofTwoBytes_lt hi lo), twoBytes_ofTwoBytes]
          simp [Report.toBytes, hv, hlen, byte_toNat, -BitVec.toNat_ofNat]
  · rintro ⟨rfl, ⟨h1, h4⟩, hcounts⟩
    obtain ⟨hi, lo, hv⟩ := exists_twoBytes r.version.toNat
    have hread : ofTwoBytes hi lo = r.version.toNat := (twoBytes_eq_iff r.version.isLt).1 hv
    have hk : (byte r.entries.length).toNat = r.entries.length := toNat_byte (by omega)
    simp [Report.toBytes, hv, reportOf, hk, h1, h4, hread, reportEntriesOf_iff.2 ⟨rfl, rfl, hcounts⟩]

/-- Settles O11: by `ofBytes_iff`, `receiveChecks_iff` and `reportOf_iff`; the proper CRC does not read the hop budget. -/
theorem telegramRoundTrip : Obligations.TelegramRoundTrip := by
  refine ⟨fun t hop h28 => ⟨ofBytes_iff.2 ⟨rfl, h28⟩, fun hcrc => ?_⟩, fun payload r => reportOf_iff⟩
  exact receiveChecks_iff.2 ⟨rfl, rfl, rfl, h28, hcrc⟩

/-! ## Telegrams dropped (O12) -/

section
variable {s : State} {t : Telegram}

theorem exec_completesReception (hp : s.pwron = false) : exec .completesReception s = .next (completeReception s) := by
  simp [exec, execCompletesReception, hp]

/-- R129: a telegram in reception completes. -/
theorem exec_completesReception_collecting (hp : s.pwron = false) {bytes : List Byte} {badStop tooLong : Bool}
    (hr : s.ring.reception = .collecting bytes badStop tooLong) :
    exec .completesReception s = .next (arbitrate (received bytes badStop tooLong s.gapSeen)) := by
  simp [exec_completesReception hp, completeReception, hr, State.gapSeen]

/-- R131: a telegram that fails a receive check. -/
theorem received_of_bad {bytes : List Byte} {badStop tooLong : Bool} (h : receiveChecks bytes badStop tooLong = none)
    (u : State) : received bytes badStop tooLong u = u.raise .badTelegram := by
  simp [received, h]

/-- R133: a good telegram that has used up its hop budget. -/
theorem received_of_expired (h28 : t.payload.length ≤ 28) (hcrc : t.crc = t.properCrc) (hhop : t.hopBudget.toNat ≤ 1)
    (u : State) : received t.toBytes false false u = u.raise .hopExpired := by
  simp [received, receiveChecks_iff.2 ⟨rfl, rfl, rfl, h28, hcrc⟩, takeHop, hhop]

/-- R133, R134: a good telegram with hop budget left is accepted with its budget one lower. -/
theorem received_of_good (h28 : t.payload.length ≤ 28) (hcrc : t.crc = t.properCrc) (hhop : 2 ≤ t.hopBudget.toNat)
    (u : State) : received t.toBytes false false u = accept { t with hopBudget := t.hopBudget - 1 } u := by
  simp [received, receiveChecks_iff.2 ⟨rfl, rfl, rfl, h28, hcrc⟩, takeHop, Nat.not_le.2 hhop]

/-- R131, R132: the ways to be bad, read off the bytes. -/
theorem receiveChecks_of_bad {bytes : List Byte} {badStop tooLong : Bool}
    (h : badStop = true ∨ bytes.length < 8 ∨ tooLong = true
      ∨ (∃ l : Byte, bytes[5]? = some l ∧ (28 < l.toNat ∨ bytes.length ≠ 8 + l.toNat))
      ∨ (8 ≤ bytes.length
        ∧ bytes.drop (bytes.length - 2) ≠
          twoBytes (crcOf (bytes.take 4 ++ (bytes.drop 5).take (bytes.length - 7))).toNat)) :
    receiveChecks bytes badStop tooLong = none := by
  by_contra hsome
  obtain ⟨t, ht⟩ := Option.ne_none_iff_exists'.1 hsome
  obtain ⟨rfl, rfl, rfl, h28, hcrc⟩ := receiveChecks_iff.1 ht
  obtain ⟨hi, lo, htail⟩ := exists_twoBytes t.crc.toNat
  have hbytes : t.toBytes = t.kind :: t.destination :: t.source :: t.seq :: t.hopBudget :: t.lengthByte ::
      (t.payload ++ [hi, lo]) := by simp [Telegram.toBytes, htail]
  have hlen : t.toBytes.length = 8 + t.payload.length := by simp [hbytes]; omega
  rcases h with h | h | h | ⟨l, hl, h⟩ | ⟨-, h⟩
  · cases h
  · omega
  · cases h
  · have hl' : t.lengthByte = l := by simpa [hbytes] using hl
    have := lengthByte_toNat h28
    rw [hl'] at this
    omega
  · refine h ?_
    have hcovered : t.toBytes.take 4 ++ (t.toBytes.drop 5).take (t.toBytes.length - 7)
        = [t.kind, t.destination, t.source, t.seq, t.lengthByte] ++ t.payload := by
      rw [hlen, hbytes]
      simp [show 8 + t.payload.length - 7 = t.payload.length + 1 by omega]
    have hlast : t.toBytes.drop (t.toBytes.length - 2) = twoBytes t.crc.toNat := by
      rw [hlen, hbytes, htail, show 8 + t.payload.length - 2 = t.payload.length + 6 by omega]
      simp
    rw [hcovered, hlast, hcrc]
    rfl

end

/-- Settles O12. -/
theorem badAndExpiredTelegramsDropped : Obligations.BadAndExpiredTelegramsDropped := by
  refine fun s hp => ⟨fun bytes badStop tooLong hr hbad => ?_, fun t hr h28 hcrc hhop => ?_, fun hr => ?_, fun hr => ?_⟩
  · rw [exec_completesReception_collecting hp hr, received_of_bad (receiveChecks_of_bad hbad)]
    rfl
  · rw [exec_completesReception_collecting hp hr, received_of_expired h28 hcrc (by rcases hhop with h | h <;> simp [h])]
    rfl
  · simp [exec_completesReception hp, completeReception, hr]
  · simp [exec_completesReception hp, completeReception, hr, State.gapSeen]

end Sys2Proof.Machine
end

section
/-! PROOFS. The Acceptance Unit and RING OUT (7.4 to 7.8): what becomes of a telegram received, what the arbiter grants, and the
end of a transmission. -/

namespace Sys2Proof.Machine

/-! ## Acceptance (Table 7-2) -/

section
variable {s : State} {t : Telegram}

/-- The telegram with its hop budget one lower (R133). -/
def Telegram.hopped (t : Telegram) : Telegram := { t with hopBudget := t.hopBudget - 1 }

@[simp] theorem hopped_keeps (t : Telegram) :
    t.hopped.kind = t.kind ∧ t.hopped.destination = t.destination ∧ t.hopped.source = t.source ∧ t.hopped.seq = t.seq
      ∧ t.hopped.payload = t.payload := by
  simp [Telegram.hopped]

/-- A good telegram with hop budget left is accepted with its budget one lower (R129, R133, R134). -/
theorem Receives.exec (h : Receives t s) :
    exec .completesReception s = .next (arbitrate (accept t.hopped s.gapSeen)) := by
  rw [exec_completesReception_collecting h.powered h.reception, received_of_good h.payload h.crc h.hop]
  rfl

@[simp] theorem gapSeen_keeps (s : State) :
    s.gapSeen.now = s.now ∧ s.gapSeen.pwron = s.pwron ∧ s.gapSeen.warm = s.warm ∧ s.gapSeen.points = s.points
      ∧ s.gapSeen.sections = s.sections ∧ s.gapSeen.peer = s.peer ∧ s.gapSeen.reports = s.reports
      ∧ s.gapSeen.requests = s.requests ∧ s.gapSeen.tables = s.tables ∧ s.gapSeen.attention = s.attention
      ∧ s.gapSeen.freeCount = s.freeCount ∧ s.gapSeen.pending = s.pending
      ∧ s.gapSeen.ring.ownAddress = s.ring.ownAddress ∧ s.gapSeen.ring.forward = s.ring.forward
      ∧ s.gapSeen.ring.watch = s.ring.watch := by
  simp [State.gapSeen]

theorem hasOwnAddress_iff : s.hasOwnAddress = true ↔ s.ring.ownAddress ≠ 0 ∧ s.ring.ownAddress ≠ 255 := by
  simp [State.hasOwnAddress]

theorem accept_own (hown : s.hasOwnAddress = true) (hsource : t.source = s.ring.ownAddress) : accept t s = stripped t s := by
  simp [accept, State.fate, hown, hsource]

end

/-- Settles O13: stripped with a record of its sequence, discarded without one. -/
theorem ownTelegramStripped : Obligations.OwnTelegramStripped := by
  intro t s h h0 h255 hsource
  have hown : s.gapSeen.hasOwnAddress = true := hasOwnAddress_iff.2 ⟨h0, h255⟩
  rw [h.exec, accept_own (t := t.hopped) hown hsource]
  refine ⟨?_, fun hno => ?_⟩
  · rintro ⟨w, hw, hseq⟩
    have hany : (s.ring.watch.any fun w => w.seq == t.seq) = true :=
      List.any_eq_true.2 ⟨w, hw, by simp [hseq]⟩
    simp [stripped, hany]
  · have hany : (s.ring.watch.any fun w => w.seq == t.seq) = false := by simpa using hno
    simp [stripped, hany]

/-! ## Snooping (R4, R95) -/

theorem headStateOf_eq_none {payload : List Byte} (h : ¬WellFormedHead payload) : headStateOf payload = none := by
  unfold headStateOf
  split
  · rename_i levels hi lo health
    exact if_neg fun hbits => h ⟨levels, hi, lo, health, rfl, hbits⟩
  · rfl

theorem headPoint_eq_none {s : State} {a : Byte} (h : ∀ p e, s.pointEntry p = some e → e.headAddress ≠ a) :
    s.headPoint a = none := by
  simp only [State.headPoint, List.find?_eq_none, Option.any_eq_true, not_exists, not_and]
  exact fun p _ e he => by simpa using h p e he

theorem reportOf_eq_none {payload : List Byte} (h : ∀ r, ¬CarriesReport payload r) : reportOf payload = none := by
  by_contra hsome
  obtain ⟨r, hr⟩ := Option.ne_none_iff_exists'.1 hsome
  exact h r (reportOf_iff.1 hr)

theorem snoopHead_of_unsnooped {t : Telegram} {s : State}
    (h : s.tables.mode = .config ∨ ¬WellFormedHead t.payload ∨ ∀ p e, s.pointEntry p = some e → e.headAddress ≠ t.source) :
    snoopHead t s = s := by
  unfold snoopHead
  rcases h with hm | hw | hp
  · rw [if_pos hm]
  · rw [headStateOf_eq_none hw]
    split <;> rfl
  · rw [headPoint_eq_none hp]
    cases headStateOf t.payload <;> simp

theorem snoopReport_of_unsnooped {t : Telegram} {s : State}
    (h : s.tables.mode = .config ∨ (∀ r, ¬CarriesReport t.payload r) ∨ s.peerAddress = 0 ∨ t.source ≠ s.peerAddress
      ∨ t.source = s.ring.ownAddress) : snoopReport t s = s := by
  unfold snoopReport
  rcases h with hm | hr | h
  · rw [if_pos (by simp [hm])]
  · rw [reportOf_eq_none hr]
    split <;> rfl
  · rw [if_pos (by tauto)]

/-- What no block snoops changes nothing. -/
theorem snoop_of_unsnooped {t : Telegram} {s : State} (h : Unsnooped t s) : snoop t s = s := by
  unfold snoop
  split
  · rename_i hk
    have hk' : t.kind = 0x21 := hk
    refine snoopHead_of_unsnooped ?_
    rcases h with ⟨hne, -⟩ | hm | ⟨-, hhead⟩ | ⟨hr, -⟩
    · exact absurd hk' hne
    · exact .inl hm
    · exact .inr hhead
    · exact absurd (hk'.symm.trans hr) (by decide)
  · split
    · rename_i hk
      have hk' : t.kind = 0x42 := hk
      refine snoopReport_of_unsnooped ?_
      rcases h with ⟨-, hne⟩ | hm | ⟨hh, -⟩ | ⟨-, hrep⟩
      · exact absurd hk' hne
      · exact .inl hm
      · exact absurd (hk'.symm.trans hh) (by decide)
      · exact .inr hrep
    · rfl

/-! ## Telegrams forwarded, consumed or both (O14) -/

section
variable {s : State} {t : Telegram}

/-- Addressed to the own address, a telegram is not forwarded. -/
theorem not_forwards_iff : ¬s.forwards t ↔ s.hasOwnAddress = true ∧ t.destination = s.ring.ownAddress := by
  simp [State.forwards]

theorem consumeAndForward_no_request (h : t.kind ≠ 0x63) (s : State) : consumeAndForward t s = forwardTelegram t s := by
  unfold consumeAndForward
  rw [if_pos (.inr h), consume_no_request h]

theorem placed_of_forwards (h : s.forwards t) : s.placed t = forwardTelegram t.hopped s := by
  rw [placed_eq, if_pos h]
  rfl

theorem placed_of_not_forwards (h : ¬s.forwards t) : s.placed t = s := by
  rw [placed_eq, if_neg h]

/-- What a telegram does is settled before its place on the ring: nothing that acts on it changes who it is for. -/
theorem forwards_congr {u : State} (h : u.ring.ownAddress = s.ring.ownAddress) : u.forwards t ↔ s.forwards t := by
  simp [State.forwards, State.hasOwnAddress, h]

/-- R134, R135: a telegram that is neither stripped nor a request is snooped, and offered to the forward buffer where
Table 7-2 forwards it. -/
theorem accept_no_request (hs : s.hasOwnAddress = false ∨ t.source ≠ s.ring.ownAddress) (hk : t.kind ≠ 0x63) :
    accept t.hopped s = (snoop t s).placed t := by
  have hfwd : (snoop t s).forwards t ↔ s.forwards t := forwards_congr (by simp)
  have hsnoop : snoop t.hopped s = snoop t s := rfl
  rw [accept_not_stripped (by simpa using hs), hsnoop]
  simp only [hopped_keeps]
  by_cases hf : s.forwards t
  · rw [if_neg fun hown => not_forwards_iff.2 hown hf, placed_of_forwards (hfwd.2 hf),
      consumeAndForward_no_request (by simpa using hk)]
    simp
  · rw [if_pos (not_forwards_iff.1 hf), placed_of_not_forwards (mt hfwd.1 hf), consume_no_request (by simpa using hk)]

theorem Receives.exec_no_request (h : Receives t s) (hs : s.hasOwnAddress = false ∨ t.source ≠ s.ring.ownAddress)
    (hk : t.kind ≠ 0x63) :
    Machine.exec .completesReception s = .next (arbitrate ((snoop t s.gapSeen).placed t)) := by
  rw [h.exec, accept_no_request (s := s.gapSeen) hs hk]

/-- The snoops read no request. -/
theorem snoop_request (hk : t.kind = 0x63) (s : State) : snoop t s = s := by
  unfold snoop
  rw [hk]
  rfl

/-- A consumed request is handed to the Request Executor. -/
theorem consume_request (hk : t.kind = 0x63) (s : State) :
    consume t s = handleRequest { source := t.source, payload := t.payload } s := by
  unfold consume
  rw [if_pos (by exact hk)]

/-- Where the buffer is full, a free value says whether the request or its overrun comes first (log 5). -/
theorem consumeAndForward_full (hk : t.kind = 0x63) (hfull : 2 ≤ s.ring.forward.length) :
    consumeAndForward t s = consume t (forwardTelegram t { s with freeCount := s.freeCount + 1 })
      ∨ consumeAndForward t s = forwardTelegram t (consume t { s with freeCount := s.freeCount + 1 }) := by
  unfold consumeAndForward
  rw [if_neg (by simp only [not_or, not_lt, not_not]; exact ⟨hfull, hk⟩)]
  dsimp only
  split
  · exact .inl rfl
  · exact .inr rfl

theorem consumeAndForward_room (hroom : s.ring.forward.length < 2) :
    consumeAndForward t s = consume t (forwardTelegram t s) := by
  unfold consumeAndForward
  rw [if_pos (.inl hroom)]

/-- R134: a request that is not stripped, by the tests of Table 7-2. -/
theorem accept_request (hs : s.hasOwnAddress = false ∨ t.source ≠ s.ring.ownAddress) (hk : t.kind = 0x63) :
    accept t.hopped s =
      if s.hasOwnAddress = true ∧ t.destination = s.ring.ownAddress then
        handleRequest { source := t.source, payload := t.payload } s
      else if s.pairAddress ≠ 0 ∧ t.destination = s.pairAddress then consumeAndForward t.hopped s
      else forwardTelegram t.hopped s := by
  rw [accept_not_stripped (by simpa using hs), snoop_request (by simpa using hk), consume_request (by simpa using hk)]
  simp

end

/-- Settles O14: by the tests of Table 7-2. -/
theorem otherTelegramsForwardedOrDiscarded : Obligations.OtherTelegramsForwardedOrDiscarded := by
  intro t s h hun hs
  have hfwd : s.gapSeen.forwards t ↔ s.forwards t := forwards_congr (by simp)
  have hs' : s.gapSeen.hasOwnAddress = false ∨ t.source ≠ s.gapSeen.ring.ownAddress := hs
  refine ⟨fun hk => ?_, fun hk hf hpair => ?_, fun hk hf => ?_, fun hk hf h0 hpair => ⟨fun hroom => ?_, fun hfull => ?_⟩⟩
  · rw [h.exec_no_request hs hk, snoop_of_unsnooped (s := s.gapSeen) hun]
  · rw [h.exec, accept_request hs' hk, if_neg fun hown => not_forwards_iff.2 hown (hfwd.2 hf),
      if_neg (by show ¬(s.pairAddress ≠ 0 ∧ _); tauto), placed_of_forwards (hfwd.2 hf)]
  · rw [h.exec, accept_request hs' hk, if_pos (not_forwards_iff.1 (mt hfwd.1 hf))]
  · rw [h.exec, accept_request hs' hk, if_neg fun hown => not_forwards_iff.2 hown (hfwd.2 hf), if_pos ⟨h0, hpair⟩,
      consumeAndForward_room (s := s.gapSeen) hroom, consume_request (t := t.hopped) hk, placed_of_forwards (hfwd.2 hf)]
    rfl
  · rw [h.exec, accept_request hs' hk, if_neg fun hown => not_forwards_iff.2 hown (hfwd.2 hf), if_pos ⟨h0, hpair⟩]
    have hdrawn : State.forwards { s.gapSeen with freeCount := s.freeCount + 1 } t := hf
    have htaken : (handleRequest { source := t.source, payload := t.payload }
        { s.gapSeen with freeCount := s.freeCount + 1 }).forwards t := (forwards_congr (by simp)).2 hdrawn
    rw [placed_of_forwards hdrawn, placed_of_forwards htaken]
    rcases consumeAndForward_full (t := t.hopped) (s := s.gapSeen) hk hfull with e | e
    · rw [e, consume_request (t := t.hopped) hk]
      exact .inl rfl
    · rw [e, consume_request (t := t.hopped) hk]
      exact .inr rfl

/-! ## The arbiter (O15, O16) -/

theorem mayInsert_iff {s : State} : s.mayInsert = true ↔
    (s.ring.ownAddress ≠ 0 ∧ s.ring.ownAddress ≠ 255) ∧ s.ring.forward = []
      ∧ (s.ring.condition = .lineDown ∨ s.ring.activity = .free) := by
  rw [← hasOwnAddress_iff]
  simp [State.mayInsert, State.ringInFree, and_assoc]

section
variable {s : State}

theorem arbitrate_busy (h : s.ring.tx ≠ .idle) : arbitrate s = s := by
  unfold arbitrate
  split
  · exact absurd ‹_› h
  · rfl

theorem arbitrate_idle (h : s.ring.tx = .idle) (hf : s.ring.forward = []) : arbitrate s = grantOwn s := by
  simp [arbitrate, h, hf]

/-- R140: an answer goes before a report. -/
theorem arbitrate_answer (h : s.ring.tx = .idle) (hm : s.mayInsert = true) {a : Answer} {rest : List AnswerPlace}
    (ha : takeAnswer s.requests.answers = some (a, rest)) : arbitrate s = grantAnswer s a rest := by
  rw [arbitrate_idle h (mayInsert_iff.1 hm).2.1]
  simp [grantOwn, hm, ha]

theorem arbitrate_no_answer (h : s.ring.tx = .idle) (hm : s.mayInsert = true) (ha : takeAnswer s.requests.answers = none) :
    arbitrate s = if s.eligible then grantReport s else s := by
  rw [arbitrate_idle h (mayInsert_iff.1 hm).2.1]
  simp [grantOwn, hm, ha]

/-- R141, R147: an own telegram, written out. -/
theorem ownTelegram_eq (s : State) (kind destination : Byte) (payload : List Byte) :
    s.ownTelegram kind destination payload =
      { kind := kind
        destination := destination
        source := s.ring.ownAddress
        seq := s.ring.ownSeq
        hopBudget := s.hopBudget
        payload := payload
        crc := crcOf ([kind, destination, s.ring.ownAddress, s.ring.ownSeq, byte payload.length] ++ payload) } := rfl

end

/-- Settles O15. -/
theorem arbiterOrder : Obligations.ArbiterOrder := by
  refine fun s => ⟨fun h => arbitrate_busy h, fun h t rest hf => by simp [arbitrate, h, hf], fun h hf hno => ?_,
    fun h hf h0 h255 hfree => ⟨fun earlier later a hanswers hres => ?_, fun hno helig => ?_⟩⟩
  · rw [arbitrate_idle h hf, grantOwn, if_neg]
    rw [mayInsert_iff]
    rintro ⟨⟨h0, h255⟩, -, hfree⟩
    rcases hno with h' | h' | ⟨hup, hbusy⟩
    · exact h0 h'
    · exact h255 h'
    · simp [hup, hbusy] at hfree
  · rw [arbitrate_answer h (mayInsert_iff.2 ⟨⟨h0, h255⟩, hf, hfree⟩) (hanswers ▸ takeAnswer_append hres a later)]
    have hlen : a.toBytes.length = 3 + a.data.length := by simp [Answer.toBytes]; omega
    simp only [grantAnswer, sendOwn, ownTelegram_eq, hlen]
    rfl
  · rw [arbitrate_no_answer h (mayInsert_iff.2 ⟨⟨h0, h255⟩, hf, hfree⟩) (takeAnswer_eq_none.2 hno)]
    simp [helig]

/-- R117, R121: when the queue is eligible. -/
theorem eligible_iff {s : State} {r : ParamRecord} (hr : s.tables.params = some r) :
    s.eligible = true ↔ s.tables.sections ≠ [] ∧ s.reports.queue ≠ []
      ∧ (r.reportTrigger ≤ s.reports.queue.length ∨ s.reports.hold = .expired) := by
  simp [State.eligible, hr, State.reportingActive, and_assoc]

theorem entry_length (e : ReportEntry) : e.toBytes.length = 6 := by simp [ReportEntry.toBytes, twoBytes]

/-- Table 8-11: a report of k entries has 3 + 6k bytes. -/
theorem report_length (r : Report) : r.toBytes.length = 3 + 6 * r.entries.length := by
  have hsum : (r.entries.flatMap ReportEntry.toBytes).length = 6 * r.entries.length := by
    induction r.entries with
    | nil => rfl
    | cons e es ih =>
      rw [List.flatMap_cons, List.length_append, entry_length, ih, List.length_cons]
      omega
  simp only [Report.toBytes, twoBytes, List.length_append, hsum]
  rfl

/-- R122: the report of the queue, written out. -/
theorem formReport_toBytes (s : State) :
    s.formReport.toBytes =
      twoBytes s.tables.version.toNat ++ [byte (min 4 s.reports.queue.length)]
        ++ (s.reports.queue.take 4).flatMap fun i =>
          [byte i.val, (s.sect i).state.code] ++ twoBytes (s.sect i).count
            ++ [(s.sect i).serial, (s.sect i).cause.code] := by
  simp only [Report.toBytes, State.formReport, List.length_map, List.length_take, List.flatMap_map]
  rfl

/-- R120, R122: what a forming leaves of the queue. -/
theorem takeFormed_eq (s : State) :
    takeFormed s =
      { s with
        reports :=
          { s.reports with
            queue := s.reports.queue.drop 4
            hold := if s.reports.queue.length ≤ 4 then .stopped else s.reports.hold } } := by
  have hempty : ((s.reports.queue.drop 4).isEmpty = true) = (s.reports.queue.length ≤ 4) := by simp
  simp only [takeFormed, hempty]

/-- Settles O16. -/
theorem reportFormed : Obligations.ReportFormed := by
  refine fun s r hr => ⟨eligible_iff hr, fun helig h hf h0 h255 hfree hno => ?_⟩
  have hlen : s.formReport.toBytes.length = 3 + 6 * min 4 s.reports.queue.length := by
    rw [report_length]
    simp [State.formReport]
  rw [arbitrate_no_answer h (mayInsert_iff.2 ⟨⟨h0, h255⟩, hf, hfree⟩) (takeAnswer_eq_none.2 hno)]
  have hbudget : (takeFormed s).hopBudget = r.hopBudget := by simp [State.hopBudget, hr]
  simp only [helig, if_true, grantReport, hr, sendOwn, ownTelegram_eq, hlen, hbudget]
  rw [← formReport_toBytes, takeFormed_eq]
  rfl

/-! ## The end of a transmission, and misses (O17, O18) -/

/-- R142: below 8 records the new one joins. -/
theorem watchAdd_room {q : Byte} {s : State} (h : s.ring.watch.length < 8) :
    watchAdd q s = { s with ring := { s.ring with watch := s.ring.watch ++ [{ seq := q, sendTime := s.now }] } } := by
  simp [watchAdd, Nat.not_le.2 h]

theorem missOldest_misses (s : State) : Misses s.ring.watch.tail s (missOldest s) := countMiss_misses s _

/-- R142: of 8 records the oldest is lost as a miss. -/
theorem watchAdd_full {q : Byte} {s : State} (h : 8 ≤ s.ring.watch.length) :
    Misses (s.ring.watch.tail ++ [{ seq := q, sendTime := s.now }]) s (watchAdd q s) := by
  obtain ⟨hframe, hrun, hloop, hlatches⟩ := missOldest_misses s
  have hadd : watchAdd q s =
      { missOldest s with
        ring := { (missOldest s).ring with watch := (missOldest s).ring.watch ++ [{ seq := q, sendTime := s.now }] } } := by
    simp [watchAdd, h]
  refine ⟨?_, by rw [hadd]; exact hrun, by rw [hadd]; exact hloop, by rw [hadd]; exact hlatches⟩
  rw [hadd, hframe]

theorem exec_transmissionEnd {t : Telegram} {cls : TxClass} {s : State} (hp : s.pwron = false)
    (h : s.ring.tx = .sending t cls) : exec .transmissionEnd s = .next (transmissionEnd t cls s) := by
  simp [exec, execTransmissionEnd, sendingEnded, h, powered_of_off hp]

/-- A warm restart reads neither the watch list nor what the transmitter sends. -/
theorem WarmRestarts.congr {s u t : State} (h : WarmRestarts u t)
    (hs : u.now = s.now ∧ u.pwron = s.pwron ∧ u.warm = s.warm ∧ u.freeCount = s.freeCount ∧ u.pending = s.pending
      ∧ u.tables = s.tables ∧ u.sections = s.sections)
    (hr : u.ring.ownAddress = s.ring.ownAddress ∧ u.ring.condition = s.ring.condition
      ∧ u.ring.reception = s.ring.reception ∧ (u.ring.tx = .idle ↔ s.ring.tx = .idle)) : WarmRestarts s t := by
  obtain ⟨hnow, hpwron, hwarm, hfree, hpending, htables, hsections⟩ := hs
  obtain ⟨haddress, hcondition, hreception, htx⟩ := hr
  obtain ⟨frame, ring, reception, tables, requests, ⟨points, queue, processing, request⟩, sections, sideMap, peer, reportQueue,
    pointer, cycle, hold, attention⟩ := h
  have hconfigured : ∀ i, u.sectionConfigured i = s.sectionConfigured i :=
    sectionConfigured_congr (congrArg TableStore.sections htables)
  refine ⟨?_, ?_, ?_, ?_, requests, ⟨?_, queue, processing, request⟩, ?_, ?_, peer, ?_, pointer, ?_, ?_, attention⟩
  · rwa [hnow, hpwron, hwarm, hfree, hpending] at frame
  · simpa only [haddress, hcondition, htx] using ring
  · rwa [hreception] at reception
  · rwa [htables, hnow] at tables
  · rw [← htables]
    exact fun p => by rw [points p, pointConfigured_congr (congrArg TableStore.points htables)]
  · rw [← htables]
    exact fun i => by rw [sections i, hconfigured, sect_congr (congrArg SectionCounter.records hsections)]
  · rw [sideMap, hsections]
  · rw [reportQueue, configuredSections_of (congrArg TableStore.sections htables)]
  · simpa only [State.freshCycle, htables, hnow] using cycle
  · simpa only [htables, hnow] using hold

/-- Settles O17. -/
theorem transmissionEnds : Obligations.TransmissionEnds := by
  refine fun t cls s hp => ⟨fun h => ?_, fun h => powered_onlyIf hp (by simp [h])⟩
  rw [exec_transmissionEnd hp h]
  have hown : cls = .report ∨ cls = .answer false → transmissionEnd t cls s = watchAdd t.seq s.inGap := by
    rintro (rfl | rfl) <;> rfl
  refine ⟨?_, fun hc hroom => ?_, fun hc hfull => ?_, ?_⟩
  · rintro rfl
    rfl
  · rw [hown hc, watchAdd_room (s := s.inGap) hroom]
    rfl
  · exact ⟨_, rfl, hown hc ▸ watchAdd_full (s := s.inGap) hfull⟩
  · rintro rfl
    have hspec := warmRestart_spec (watchAdd t.seq s.inGap)
    exact ⟨_, rfl, hspec.congr (by simp) (by simp [h, State.inGap]), hspec.alarm⟩

/-- Settles O18: the oldest record is due, or not yet. -/
theorem watchRecordExpires : Obligations.WatchRecordExpires := by
  refine fun w rest s hp hw => ⟨fun hlate => ⟨missOldest s, ?_, ?_, rfl⟩, fun hyoung => ?_⟩
  · exact powered_onlyIf hp (watchDue_iff.2 ⟨w, rest, hw, hlate⟩)
  · have := missOldest_misses s
    rwa [hw] at this
  · refine powered_onlyIf_not hp ?_
    rw [← Bool.not_eq_true, watchDue_iff]
    rintro ⟨w', rest', hw', hlate⟩
    rw [hw] at hw'
    cases hw'
    exact absurd hlate (Nat.not_lt.2 hyoung)

end Sys2Proof.Machine
end

section
/-! PROOFS. Detection points (chapters 1 and 2): head telegrams snooped, records taken and applied by the status of their point,
the phase machine, and the timers of the points. -/

namespace Sys2Proof.Machine

/-! ## Equality item by item -/

theorem state_ext {s t : State} (h : s.now = t.now ∧ s.pwron = t.pwron ∧ s.warm = t.warm ∧ s.ring = t.ring
    ∧ s.points = t.points ∧ s.sections = t.sections ∧ s.peer = t.peer ∧ s.reports = t.reports ∧ s.requests = t.requests
    ∧ s.tables = t.tables ∧ s.attention = t.attention ∧ s.freeCount = t.freeCount ∧ s.pending = t.pending) : s = t := by
  cases s
  cases t
  simp_all

theorem points_ext {a b : PointSupervisor} (h : a.records = b.records ∧ a.queue = b.queue ∧ a.processing = b.processing
    ∧ a.request = b.request) : a = b := by
  cases a
  cases b
  simp_all

theorem attention_ext {a b : AttentionUnit} (h : a.latches = b.latches ∧ a.mask = b.mask) : a = b := by
  cases a
  cases b
  simp_all

/-! ## Intake (O19, O20) -/

section
variable {s : State} {p : PointIndex} {e : PointEntry}

theorem headStateOf_wellFormed {levels hi lo health : Byte} (hl : levels.toNat < 4) (hh : health.toNat < 8) :
    headStateOf [levels, hi, lo, health] =
      some
        { s1 := levels.getLsbD 0
          s2 := levels.getLsbD 1
          tick := BitVec.ofNat 16 (hi.toNat * 256 + lo.toNat)
          health :=
            { s1Fault := health.getLsbD 0
              s2Fault := health.getLsbD 1
              internalFault := health.getLsbD 2 } } := by
  simp [headStateOf, hl, hh, ofTwoBytes]

/-- R1: the one configured point with a head address. -/
theorem headPoint_eq {a : Byte} (he : s.pointEntry p = some e) (ha : e.headAddress = a)
    (hone : ∀ q f, s.pointEntry q = some f → f.headAddress = a → q = p) : s.headPoint a = some p := by
  unfold State.headPoint
  rw [find_of_sorted _ (configuredPoints_sorted s)]
  refine ⟨mem_configuredPoints.2 (pointConfigured_of_entry he), by simp [he, ha], fun q _ hq => ?_⟩
  cases hf : s.pointEntry q with
  | none => rfl
  | some f =>
    rw [Option.any_some, beq_eq_false_iff_ne]
    exact fun hfa => hq.ne (hone q f hf hfa)

/-- R5: an arrival restarts the timer of a supervised point. -/
theorem restartSupervision_point (he : s.pointEntry p = some e) (q : PointIndex) :
    (restartSupervision p s).point q =
      if q = p ∧ ((s.point p).status = .healthy ∨ (s.point p).status = .faulted) then
        { s.point p with supervision := some { start := s.now, length := e.window * 10 } }
      else s.point q := by
  have htimer : s.supervisionTimer p = some { start := s.now, length := e.window * 10 } := by
    rw [supervisionTimer_eq, he, Option.map_some]
  unfold restartSupervision
  split
  · rename_i hst
    rw [setPoint_point, htimer]
    simp [hst]
  · rename_i hst
    rw [setPoint_point, htimer]
    simp [hst]
  · rename_i hh hf
    rw [if_neg]
    rintro ⟨-, h | h⟩
    · exact hh h
    · exact hf h

theorem offerRecord_room {r : EventRecord} (h : s.points.queue.length < 64) :
    (offerRecord r s).attention.latches = s.attention.latches ∧ (offerRecord r s).points.queue = s.points.queue ++ [r] := by
  simp [offerRecord, h]

theorem offerRecord_full {r : EventRecord} (h : 64 ≤ s.points.queue.length) :
    (offerRecord r s).attention.latches = s.attention.latches ||| Latch.eventOverrun.mask
      ∧ (offerRecord r s).points.queue = s.points.queue := by
  simp [offerRecord, Nat.not_lt.2 h]

/-- What an intake leaves beside the records, the queue and the latches. -/
theorem offerRecord_restartSupervision_frame (r : EventRecord) (s : State) :
    let u := offerRecord r (restartSupervision p s)
    u =
      { s with
        points := { s.points with records := u.points.records, queue := u.points.queue }
        attention := { s.attention with latches := u.attention.latches } } :=
  state_ext ⟨by simp, by simp, by simp, by simp, points_ext (by simp), by simp, by simp, by simp, by simp, by simp,
    attention_ext (by simp), by simp, by simp⟩

end

/-- Settles O19. -/
theorem headTelegramSnooped : Obligations.HeadTelegramSnooped := by
  intro t levels hi lo health p e s h hk hpayload hl hh hm he ha hone hs
  have hsnoop : ∃ r : EventRecord, snoop t s.gapSeen = offerRecord r (restartSupervision p s.gapSeen)
      ∧ r = { point := p
              seq := t.seq
              s1 := levels.getLsbD 0
              s2 := levels.getLsbD 1
              tick := BitVec.ofNat 16 (hi.toNat * 256 + lo.toNat)
              health :=
                { s1Fault := health.getLsbD 0
                  s2Fault := health.getLsbD 1
                  internalFault := health.getLsbD 2 }
              arrival := s.now } := by
    refine ⟨_, ?_, rfl⟩
    have hhead : s.gapSeen.headPoint t.source = some p := headPoint_eq (s := s.gapSeen) he ha hone
    have hkind : t.kind = kindHeadState := hk
    simp [snoop, snoopHead, hkind, hm, hpayload, headStateOf_wellFormed hl hh, hhead, eventRecordOf]
  obtain ⟨r, hsnoop, rfl⟩ := hsnoop
  refine ⟨snoop t s.gapSeen, h.exec_no_request hs (by rw [hk]; decide), ?_, fun q => ?_, fun hroom => ?_, fun hfull => ?_⟩ <;>
    rw [hsnoop]
  · exact offerRecord_restartSupervision_frame _ s.gapSeen
  · rw [point_congr (s := restartSupervision p s.gapSeen) (by simp)]
    exact restartSupervision_point (s := s.gapSeen) he q
  · simpa using offerRecord_room (s := restartSupervision p s.gapSeen) (by simpa using hroom)
  · simpa using offerRecord_full (s := restartSupervision p s.gapSeen) (by simpa using hfull)

/-- Settles O20: by `State.mayTake`. -/
theorem recordTaken : Obligations.RecordTaken := by
  refine fun s hp => ⟨fun hnone hrequest r rest hq => ?_, fun hno => ?_⟩
  · have htake : takeRecord s = { s with points := { s.points with queue := rest, processing := some r } } := by
      simp [takeRecord, hq]
    rw [← htake]
    exact powered_onlyIf hp (by simp [State.mayTake, hnone, hrequest])
  · cases hmay : s.mayTake with
    | false => exact powered_onlyIf_not hp hmay
    | true =>
      simp only [State.mayTake, Bool.and_eq_true, Option.isNone_iff_eq_none] at hmay
      have hq : s.points.queue = [] := by tauto
      have htake : takeRecord s = s := by simp [takeRecord, hq]
      refine (powered_onlyIf hp (by simp [State.mayTake, hmay])).trans ?_
      rw [htake]

/-! ## Records applied (O21, O22, O23) -/

section
variable {r : EventRecord} {s : State}

theorem exec_recordApply (hp : s.pwron = false) (hr : s.points.processing = some r) :
    exec .recordApply s = .next (arbitrate (applyRecord r s.taken)) := by
  simp only [exec, execRecordApply, powered_of_off hp, applyTaken, hr]
  rfl

@[simp] theorem taken_point (s : State) (p : PointIndex) : s.taken.point p = s.point p := rfl

@[simp] theorem taken_pointEntry (s : State) (p : PointIndex) : s.taken.pointEntry p = s.pointEntry p := rfl

/-- 1.9: the health field is nonzero when an indication is set. -/
theorem nonzero_eq_false {x : Health} :
    x.nonzero = false ↔ x = { s1Fault := false, s2Fault := false, internalFault := false } := by
  cases x
  simp [Health.nonzero, and_assoc]

theorem nonzero_eq_true {x : Health} :
    x.nonzero = true ↔ x ≠ { s1Fault := false, s2Fault := false, internalFault := false } := by
  rw [ne_eq, ← nonzero_eq_false, Bool.not_eq_false]

theorem exec_recordApply_healthy (hp : s.pwron = false) (hr : s.points.processing = some r)
    (hst : (s.point r.point).status = .healthy) :
    exec .recordApply s = .next (arbitrate (applyHealthy r s.taken)) := by
  rw [exec_recordApply hp hr]
  simp [applyRecord, hst]

theorem exec_recordApply_starting (hp : s.pwron = false) (hr : s.points.processing = some r)
    (hst : (s.point r.point).status = .starting) :
    exec .recordApply s = .next (arbitrate (applyStarting r s.taken)) := by
  rw [exec_recordApply hp hr]
  simp [applyRecord, hst]

theorem exec_recordApply_faulted (hp : s.pwron = false) (hr : s.points.processing = some r)
    (hst : (s.point r.point).status = .faulted) :
    exec .recordApply s = .next (arbitrate (applyFaulted r s.taken)) := by
  rw [exec_recordApply hp hr]
  simp [applyRecord, hst]

/-- R181: START-UP ends with the last departure. -/
theorem reportDeparture_ends (v : State) : EndsStartUp v (reportDeparture v) := by
  have hstarting : v.someStarting = false ↔ ∀ q, v.pointConfigured q = true → (v.point q).status ≠ .starting := by
    simp [State.someStarting, mem_configuredPoints]
  unfold EndsStartUp reportDeparture
  simp only [← hstarting]
  split <;> rfl

/-! ### Table 1-6 -/

theorem judgeSequence_accepted {q x : Byte} (h : x = seqSuccessor q) : judgeSequence (some q) x = .accepted := by
  simp [judgeSequence, h]

theorem judgeSequence_duplicate {q x : Byte} (h : x ≠ seqSuccessor q) (hq : x = q) :
    judgeSequence (some q) x = .duplicate := by
  rw [judgeSequence, if_neg (by simpa using h.symm), if_pos (by rw [hq])]

theorem judgeSequence_headRestart {q x : Byte} (h : x ≠ seqSuccessor q) (hq : x ≠ q) (h0 : x = 0) :
    judgeSequence (some q) x = .fault .headRestart := by
  rw [judgeSequence, if_neg (by simpa using h.symm), if_neg (by simpa using hq.symm), if_pos h0]

theorem judgeSequence_gap {q x : Byte} (h : x ≠ seqSuccessor q) (hq : x ≠ q) (h0 : x ≠ 0) :
    judgeSequence (some q) x = .fault .gap := by
  rw [judgeSequence, if_neg (by simpa using h.symm), if_neg (by simpa using hq.symm), if_neg h0]

theorem applyHealthy_duplicate (h : judgeSequence (s.point r.point).seqRef r.seq = .duplicate) : applyHealthy r s = s := by
  simp [applyHealthy, h]

theorem applyHealthy_fault {c : FaultCause} (h : judgeSequence (s.point r.point).seqRef r.seq = .fault c) :
    applyHealthy r s = enterFaulted r.point c s := by
  simp [applyHealthy, h]

/-- R12: an accepted record with an indication; the sequence reference goes with the entry into FAULTED. -/
theorem applyHealthy_report (h : judgeSequence (s.point r.point).seqRef r.seq = .accepted) (hh : r.health.nonzero = true) :
    applyHealthy r s = enterFaulted r.point .headReport s := by
  simp only [applyHealthy, h, hh, if_true, enterFaulted_setSeq]

theorem applyHealthy_step (h : judgeSequence (s.point r.point).seqRef r.seq = .accepted) (hh : r.health.nonzero = false) :
    applyHealthy r s = phaseStep r (s.setPoint r.point { s.point r.point with seqRef := some r.seq }) := by
  simp [applyHealthy, h, hh]

/-! ### Table 1-7 -/

theorem applyStarting_report (hh : r.health.nonzero = true) :
    applyStarting r s = reportDeparture (enterFaulted r.point .headReport s) := by
  simp [applyStarting, hh]

theorem applyStarting_occupied (hh : r.health.nonzero = false) (hs : r.s1 = true ∨ r.s2 = true) :
    applyStarting r s = reportDeparture (enterFaulted r.point .occupiedAtStart s) := by
  have hlevels : (r.s1 || r.s2) = true := by simpa using hs
  simp [applyStarting, hh, hlevels]

theorem applyStarting_healthy (hh : r.health.nonzero = false) (h1 : r.s1 = false) (h2 : r.s2 = false) :
    applyStarting r s =
      reportDeparture
        (s.setPoint r.point
          { s.point r.point with
            status := .healthy
            seqRef := some r.seq
            supervision := (s.pointEntry r.point).map fun e => { start := s.now, length := e.window * 10 } }) := by
  simp [applyStarting, hh, h1, h2, supervisionTimer_eq]

/-! ### Table 1-8 -/

/-- R11: an acceptable record shows no wheel and no indication, and follows the reference. -/
theorem acceptable_iff (x : Option Byte) (r : EventRecord) :
    Machine.acceptable x r = true ↔
      r.s1 = false ∧ r.s2 = false ∧ r.health = { s1Fault := false, s2Fault := false, internalFault := false }
        ∧ (x = none → r.seq ≠ 0) ∧ (∀ q, x = some q → r.seq = if q = 255 then 1 else q + 1) := by
  cases x <;> simp [Machine.acceptable, nonzero_eq_false, seqSuccessor, and_assoc]

theorem applyFaulted_eq {e : PointEntry} (he : s.pointEntry r.point = some e) :
    applyFaulted r s = s.setPoint r.point ((s.point r.point).recover r e.recoveryCount) := by
  simp [applyFaulted, he]

end

/-- Settles O21: by the tests of Table 1-6 in order. -/
theorem healthyRecordChecked : Obligations.HealthyRecordChecked := by
  intro r q s hp hr hst hq
  have href : (s.taken.point r.point).seqRef = some q := hq
  rw [exec_recordApply_healthy hp hr hst]
  refine ⟨fun hne hdup => ?_, fun hne hne' h0 => ⟨_, rfl, ?_⟩, fun hne hne' h0 => ⟨_, rfl, ?_⟩, fun heq hh => ⟨_, rfl, ?_⟩⟩
  · rw [applyHealthy_duplicate (href ▸ judgeSequence_duplicate hne hdup)]
  · rw [applyHealthy_fault (href ▸ judgeSequence_headRestart hne hne' h0)]
    exact enterFaulted_spec _ _ _
  · rw [applyHealthy_fault (href ▸ judgeSequence_gap hne hne' h0)]
    exact enterFaulted_spec _ _ _
  · rw [applyHealthy_report (href ▸ judgeSequence_accepted heq) (nonzero_eq_true.2 hh)]
    exact enterFaulted_spec _ _ _

/-- Settles O22: by the rows of Table 1-7. -/
theorem startingPointLeaves : Obligations.StartingPointLeaves := by
  intro r s hp hr hst
  rw [exec_recordApply_starting hp hr hst]
  refine ⟨fun hh => ?_, fun hh hs => ?_, fun hh h1 h2 => ?_⟩
  · rw [applyStarting_report (nonzero_eq_true.2 hh)]
    exact ⟨_, _, rfl, enterFaulted_spec _ _ _, reportDeparture_ends _⟩
  · rw [applyStarting_occupied (nonzero_eq_false.2 hh) hs]
    exact ⟨_, _, rfl, enterFaulted_spec _ _ _, reportDeparture_ends _⟩
  · rw [applyStarting_healthy (nonzero_eq_false.2 hh) h1 h2]
    exact ⟨_, _, rfl, reportDeparture_ends _, rfl⟩

/-- Settles O23: by the rows of Table 1-8. -/
theorem faultedPointRecovers : Obligations.FaultedPointRecovers := by
  intro r e s hp hr hst he
  rw [exec_recordApply_faulted hp hr hst, applyFaulted_eq (s := s.taken) he, taken_point]
  refine ⟨fun hno => ?_, fun hok hrun => ?_, fun hok hrun => ?_⟩
  · have hacc : Machine.acceptable (s.point r.point).seqRef r = false := by
      rw [← Bool.not_eq_true, acceptable_iff]
      exact hno
    simp [PointRecord.recover, hacc]
  · have hacc := (acceptable_iff (s.point r.point).seqRef r).2 hok
    simp [PointRecord.recover, hacc, Nat.not_le.2 hrun]
  · have hacc := (acceptable_iff (s.point r.point).seqRef r).2 hok
    simp [PointRecord.recover, hacc, hrun]

/-! ## Requests and timers (O24, O25, O26) -/

/-- Settles O24. -/
theorem faultRequestTakenOrDropped : Obligations.FaultRequestTakenOrDropped := by
  intro q s hp hq
  have hexec : exec .skipOrSuspectRequestTaken s = .next (arbitrate (takeRequest q s)) := by
    simp only [exec, execSkipOrSuspectRequestTaken, powered_of_off hp, requestTaken, hq]
  rw [hexec]
  refine ⟨fun hst => ⟨_, rfl, ?_⟩, fun hst => ?_⟩
  · rw [takeRequest, if_pos (by exact hst)]
    exact enterFaulted_spec _ _ _
  · rw [takeRequest, if_neg (by exact hst)]

theorem exec_supervisionExpiry {s : State} (p : PointIndex) :
    exec (.supervisionExpiry p.val) s =
      powered s (onlyIf (s.supervisionDue p) s (arbitrate (supervisionExpired p s))) := by
  simp [exec, execSupervisionExpiry]

/-- Settles O25. -/
theorem supervisionExpires : Obligations.SupervisionExpires := by
  intro p s hp
  simp only [exec_supervisionExpiry]
  refine ⟨fun m hm hlate => ⟨fun hst => ⟨_, powered_onlyIf hp (supervisionDue_iff.2 ⟨.inl hst, m, hm, hlate⟩), ?_⟩,
    fun hst => ?_⟩, fun hyoung => powered_onlyIf_not hp ?_, fun hh hf => powered_onlyIf_not hp ?_⟩
  · rw [supervisionExpired, if_pos hst]
    exact enterFaulted_spec _ _ _
  · rw [powered_onlyIf hp (supervisionDue_iff.2 ⟨.inr hst, m, hm, hlate⟩), supervisionExpired, if_neg (by simp [hst]),
      supervisionTimer_eq]
  · simp only [State.supervisionDue, timerDue_false hyoung, Bool.and_false]
  · simp [State.supervisionDue, hh, hf]

/-- A point fault where every section is DISTURBED already reaches none of them (R65). -/
theorem enterFaulted_of_disturbed {s : State} (h : ∀ i, (s.sect i).state = .disturbed) (p : PointIndex) (c : FaultCause) :
    enterFaulted p c s =
      (s.setPoint p ((s.point p).enterFaulted c (s.supervisionTimer p))).raise .pointFault := by
  have hdisturb : ∀ (t : State), t.sections = s.sections → ∀ i, disturb .pointFault i t = t := fun t ht i => by
    unfold disturb
    rw [if_pos]
    rw [sect_congr (congrArg SectionCounter.records ht)]
    exact h i
  have hside : ∀ (o : Option SectionIndex) (t : State), t.sections = s.sections → atSide o (disturb .pointFault) t = t :=
    fun o t ht => by
      cases o with
      | none => rfl
      | some i => exact hdisturb t ht i
  unfold enterFaulted faultNotice
  rw [hside _ (s.setPoint p _) (by simp), hside _ (s.setPoint p _) (by simp)]

/-- The points of a list that are STARTING have been faulted as START_TIMEOUT, and nothing else has happened but POINT_FAULT. -/
structure TimedOut (l : List PointIndex) (s t : State) : Prop where
  frame : t =
    { s with
      points := { s.points with records := t.points.records }
      attention := { s.attention with latches := t.attention.latches } }
  points : ∀ p, t.point p =
    if p ∈ l ∧ (s.point p).status = .starting then (s.point p).enterFaulted .startTimeout (s.supervisionTimer p)
    else s.point p
  latches : t.attention.latches =
    if ∃ p ∈ l, (s.point p).status = .starting then s.attention.latches ||| Latch.pointFault.mask else s.attention.latches

/-- One more point in turn. -/
theorem TimedOut.cons {p : PointIndex} {l : List PointIndex} {s u : State} (hst : (s.point p).status = .starting)
    (h : TimedOut l
      ((s.setPoint p ((s.point p).enterFaulted .startTimeout (s.supervisionTimer p))).raise .pointFault) u) :
    TimedOut (p :: l) s u := by
  obtain ⟨frame, points, latches⟩ := h
  have hpoint : ∀ q,
      ((s.setPoint p ((s.point p).enterFaulted .startTimeout (s.supervisionTimer p))).raise .pointFault).point q =
        if q = p then (s.point p).enterFaulted .startTimeout (s.supervisionTimer p) else s.point q := fun q => by
    rw [← setPoint_point]
    exact point_congr (by simp) q
  refine ⟨frame.trans rfl, fun q => ?_, ?_⟩
  · rw [points q, hpoint]
    by_cases hq : q = p
    · subst hq
      simp [hst, PointRecord.enterFaulted]
    · simp [hq]
      rfl
  · refine (latches.trans ?_).trans (if_pos ⟨p, by simp, hst⟩).symm
    split <;> simp [BitVec.or_assoc]

theorem foldl_timeoutPoint_timedOut (l : List PointIndex) {s : State} (h : ∀ i, (s.sect i).state = .disturbed) :
    TimedOut l s (l.foldl timeoutPoint s) := by
  induction l generalizing s with
  | nil => exact ⟨rfl, by simp, by simp⟩
  | cons p l ih =>
    rw [List.foldl_cons]
    by_cases hst : (s.point p).status = .starting
    · rw [timeoutPoint, if_pos hst, enterFaulted_of_disturbed h]
      exact TimedOut.cons hst (ih fun i => by rw [sect_congr (s := s) (by simp)]; exact h i)
    · rw [timeoutPoint, if_neg hst]
      obtain ⟨frame, points, latches⟩ := ih h
      refine ⟨frame, fun q => ?_, ?_⟩
      · rw [points q]
        by_cases hq : q = p
        · subst hq
          simp [hst]
        · simp [hq]
      · simpa [hst] using latches

theorem exec_startUpLimitExpiry (s : State) :
    exec .startUpLimitExpiry s = powered s (onlyIf s.startLimitDue s (arbitrate (startLimitExpired s))) := rfl

/-- Settles O26: by the fold over the points, and the entry into SERVICE. -/
theorem startUpLimitExpires : Obligations.StartUpLimitExpires := by
  intro m s hp hm hl
  rw [exec_startUpLimitExpiry]
  refine ⟨fun hlate hd => ⟨startLimitExpired s, powered_onlyIf hp (startLimitDue_iff.2 ⟨hm, m, hl, hlate⟩), ?_⟩,
    fun hyoung => powered_onlyIf_not hp ?_⟩
  · obtain ⟨frame, points, latches⟩ := foldl_timeoutPoint_timedOut (List.finRange 48) hd
    have hpoint : ∀ p, (startLimitExpired s).point p = ((List.finRange 48).foldl timeoutPoint s).point p :=
      fun p => point_congr (by simp [startLimitExpired]) p
    have hlatches : (startLimitExpired s).attention.latches
        = ((List.finRange 48).foldl timeoutPoint s).attention.latches := by simp [startLimitExpired]
    refine ⟨?_, fun p => ?_, fun hex => ?_, fun hno => ?_⟩
    · unfold startLimitExpired
      generalize (List.finRange 48).foldl timeoutPoint s = v at frame
      rw [frame]
      rfl
    · rw [hpoint, points p, supervisionTimer_eq]
      simp only [List.mem_finRange, true_and]
      rfl
    · rw [hlatches, latches, if_pos (by simpa using hex)]
    · rw [hlatches, latches, if_neg (by simpa using hno)]
  · have hyoung' : ∀ m', s.tables.startLimit = some m' → (s.now - m'.start).toNat < m'.length := fun m' hm' => by
      rw [hl] at hm'
      cases hm'
      exact hyoung
    simp only [State.startLimitDue, timerDue_false hyoung', Bool.and_false]

end Sys2Proof.Machine
end

section
/-! PROOFS. The phase machine (chapter 2): what each cell of Table 2-4 does, and the judgement of a completed pass. -/

namespace Sys2Proof.Machine

/-! ## The cells of Table 2-4 -/

section
variable {r : EventRecord} {s : State} {y : Phase}

theorem phaseStep_stay (h : phaseCell (s.point r.point).phase r.s1 r.s2 = .stay) : phaseStep r s = s := by
  simp [phaseStep, h]

theorem phaseStep_skip (h : phaseCell (s.point r.point).phase r.s1 r.s2 = .skip) :
    phaseStep r s = { s with points := { s.points with request := some { point := r.point, cause := .skip } } } := by
  simp [phaseStep, h]

theorem phaseStep_move (h : phaseCell (s.point r.point).phase r.s1 r.s2 = .move y) :
    phaseStep r s = s.setPoint r.point { s.point r.point with phase := y } := by
  simp [phaseStep, h]

theorem phaseStep_retake (h : phaseCell (s.point r.point).phase r.s1 r.s2 = .retake y) :
    phaseStep r s =
      s.setPoint r.point { s.point r.point with phase := y, lead := some { tick := r.tick, arrival := r.arrival } } := by
  simp [phaseStep, h, EventRecord.lead]

theorem phaseStep_measure (h : phaseCell (s.point r.point).phase r.s1 r.s2 = .measure y) {l : Lead} {e : PointEntry}
    (hl : (s.point r.point).lead = some l) (he : s.pointEntry r.point = some e) :
    phaseStep r s =
      s.setPoint r.point
        { s.point r.point with phase := y, lastSpeed := measureSpeed l r.tick r.arrival e.spacing } := by
  simp [phaseStep, h, State.speedAfter, hl, he]

theorem phaseStep_leaveIdle (h : phaseCell (s.point r.point).phase r.s1 r.s2 = .leaveIdle y) :
    phaseStep r s =
      announceOccupancy r.point
        (s.setPoint r.point
          { s.point r.point with phase := y, lead := some { tick := r.tick, arrival := r.arrival } }) := by
  simp [phaseStep, h, EventRecord.lead]

theorem phaseStep_rollback (h : phaseCell (s.point r.point).phase r.s1 r.s2 = .rollback) :
    phaseStep r s =
      announceOccupancy r.point (s.setPoint r.point { s.point r.point with phase := .idle, lead := none }) := by
  simp [phaseStep, h]

theorem phaseStep_complete {d : Direction} (h : phaseCell (s.point r.point).phase r.s1 r.s2 = .complete d) :
    phaseStep r s =
      judge r.point
        (announcePass r.point d
          (s.setPoint r.point { s.point r.point with phase := .idle, lead := none, lastDirection := some d })) := by
  simp [phaseStep, h]

/-- Table 2-2, Table 2-4: the levels of the phase itself. -/
theorem phaseCell_levels (x : Phase) : phaseCell x x.levels.1 x.levels.2 = .stay := by cases x <;> rfl

/-- R23: both sensors differ. -/
theorem phaseCell_both_differ {x : Phase} {a b : Bool} (ha : a ≠ x.levels.1) (hb : b ≠ x.levels.2) :
    phaseCell x a b = .skip := by
  cases x <;> cases a <;> cases b <;> simp_all [Phase.levels, phaseCell]

/-! ## A record that steps the phase machine -/

/-- The state the phase machine steps: the record taken, its sequence the reference. -/
def State.stepping (s : State) (r : EventRecord) : State :=
  s.taken.setPoint r.point { s.point r.point with seqRef := some r.seq }

/-- R9, R22: a record that follows the reference with no indication steps the phase machine. -/
theorem StepsOn.exec (h : StepsOn r s) :
    Machine.exec .recordApply s = .next (arbitrate (phaseStep r (s.stepping r))) := by
  have hseq : judgeSequence (s.taken.point r.point).seqRef r.seq = .accepted := by
    rw [taken_point]
    unfold judgeSequence
    rw [if_pos h.sequence]
  rw [exec_recordApply_healthy h.powered h.processing h.healthy, applyHealthy_step hseq (nonzero_eq_false.2 h.health)]
  rfl

theorem stepping_point (s : State) (r : EventRecord) (q : PointIndex) :
    (s.stepping r).point q = if q = r.point then { s.point r.point with seqRef := some r.seq } else s.point q := by
  rw [State.stepping, setPoint_point, taken_point]

@[simp] theorem stepping_point_same (s : State) (r : EventRecord) :
    (s.stepping r).point r.point = { s.point r.point with seqRef := some r.seq } := by
  simp [stepping_point]

/-- The phase machine's write replaces the record. -/
theorem stepping_setPoint (s : State) (r : EventRecord) (x : PointRecord) :
    (s.stepping r).setPoint r.point x = s.taken.setPoint r.point x := setPoint_setPoint _ _ _ _

end

/-- Settles O27: by `phaseCell_levels` and `phaseCell_both_differ`. -/
theorem heartbeatsAndSkips : Obligations.HeartbeatsAndSkips := by
  intro r s h
  rw [h.exec]
  refine ⟨fun h1 h2 => ?_, fun h1 h2 => ?_⟩
  · have hcell : phaseCell ((s.stepping r).point r.point).phase r.s1 r.s2 = .stay := by
      rw [stepping_point_same, h1, h2]
      exact phaseCell_levels _
    rw [phaseStep_stay hcell]
    rfl
  · have hcell : phaseCell ((s.stepping r).point r.point).phase r.s1 r.s2 = .skip := by
      rw [stepping_point_same]
      exact phaseCell_both_differ h1 h2
    rw [phaseStep_skip hcell]
    rfl

/-- Settles O28: cell by cell. -/
theorem stepsWithinAPass : Obligations.StepsWithinAPass := by
  intro r e l s h he hl
  have hcell : ∀ {x : Phase} {a b : Bool} {c : PhaseStep}, (s.point r.point).phase = x → r.s1 = a → r.s2 = b →
      phaseCell x a b = c → phaseCell ((s.stepping r).point r.point).phase r.s1 r.s2 = c := by
    rintro x a b c hx h1 h2 hc
    rw [stepping_point_same, hx, h1, h2, hc]
  have hmove : ∀ {y : Phase}, phaseCell ((s.stepping r).point r.point).phase r.s1 r.s2 = .move y →
      Machine.exec .recordApply s =
        .next (arbitrate (s.taken.setPoint r.point { s.point r.point with seqRef := some r.seq, phase := y })) :=
    fun hc => by rw [h.exec, phaseStep_move hc, stepping_setPoint, stepping_point_same]
  have hretake : ∀ {y : Phase}, phaseCell ((s.stepping r).point r.point).phase r.s1 r.s2 = .retake y →
      Machine.exec .recordApply s =
        .next (arbitrate (s.taken.setPoint r.point
          { s.point r.point with
            seqRef := some r.seq, phase := y, lead := some { tick := r.tick, arrival := r.arrival } })) :=
    fun hc => by rw [h.exec, phaseStep_retake hc, stepping_setPoint, stepping_point_same]
  have hmeasure : ∀ {y : Phase}, phaseCell ((s.stepping r).point r.point).phase r.s1 r.s2 = .measure y →
      Machine.exec .recordApply s =
        .next (arbitrate (s.taken.setPoint r.point
          { s.point r.point with
            seqRef := some r.seq, phase := y, lastSpeed := measureSpeed l r.tick r.arrival e.spacing })) :=
    fun hc => by
      rw [h.exec, phaseStep_measure hc (by simpa using hl) he, stepping_setPoint, stepping_point_same]
  exact ⟨fun hx h1 h2 => hmeasure (hcell hx h1 h2 rfl), fun hx h1 h2 => hretake (hcell hx h1 h2 rfl),
    fun hx h1 h2 => hmove (hcell hx h1 h2 rfl), fun hx h1 h2 => hmove (hcell hx h1 h2 rfl),
    fun hx h1 h2 => hmeasure (hcell hx h1 h2 rfl), fun hx h1 h2 => hretake (hcell hx h1 h2 rfl),
    fun hx h1 h2 => hmove (hcell hx h1 h2 rfl), fun hx h1 h2 => hmove (hcell hx h1 h2 rfl)⟩

/-! ## Occupancy announced (O30) -/

section
variable {r : EventRecord} {s : State} {x : PointRecord}

/-- R35: a phase written and announced, seen from before the record was taken. -/
theorem announced_spec (r : EventRecord) (s : State) (x : PointRecord) :
    let u := announceOccupancy r.point (s.taken.setPoint r.point x)
    u =
        { s.taken with
          points := { s.taken.points with records := u.points.records }
          sections := u.sections
          peer := u.peer
          reports := u.reports }
      ∧ (∀ q, u.point q = if q = r.point then x else s.point q)
      ∧ Reoccupies (s.sidesOf r.point) s u := by
  refine ⟨?_, fun q => ?_, ?_⟩
  · exact state_ext ⟨by simp, by simp, by simp, by simp, points_ext (by simp), rfl, rfl, rfl, by simp, by simp, by simp,
      by simp, by simp⟩
  · rw [point_congr (s := s.taken.setPoint r.point x) (by simp), setPoint_point, taken_point]
  · have hspec := announceOccupancy_spec r.point (s.taken.setPoint r.point x)
    rw [sidesOf_congr (s := s) (by simp)] at hspec
    exact reoccupies_congr hspec (by simp) (by simp) (by simp) (by simp) (by simp)

end

/-- Settles O30: the cells that leave IDLE and that roll back to it. -/
theorem wheelArrivesOrRollsBack : Obligations.WheelArrivesOrRollsBack := by
  intro r s h
  have hleave : ∀ {y : Phase}, phaseCell ((s.stepping r).point r.point).phase r.s1 r.s2 = .leaveIdle y →
      Machine.exec .recordApply s = .next (arbitrate (announceOccupancy r.point (s.taken.setPoint r.point
        { s.point r.point with
          seqRef := some r.seq, phase := y, lead := some { tick := r.tick, arrival := r.arrival } }))) :=
    fun hc => by rw [h.exec, phaseStep_leaveIdle hc, stepping_setPoint, stepping_point_same]
  have hback : phaseCell ((s.stepping r).point r.point).phase r.s1 r.s2 = .rollback →
      Machine.exec .recordApply s = .next (arbitrate (announceOccupancy r.point (s.taken.setPoint r.point
        { s.point r.point with seqRef := some r.seq, phase := .idle, lead := none }))) :=
    fun hc => by rw [h.exec, phaseStep_rollback hc, stepping_setPoint, stepping_point_same]
  refine ⟨fun hx h1 h2 => ⟨_, hleave ?_, announced_spec r s _⟩, fun hx h1 h2 => ⟨_, hleave ?_, announced_spec r s _⟩,
    fun hx h1 h2 => ⟨_, hback ?_, announced_spec r s _⟩⟩
  · rw [stepping_point_same, hx, h1, h2]
    rfl
  · rw [stepping_point_same, hx, h1, h2]
    rfl
  · rw [stepping_point_same, h1, h2]
    rcases hx with hx | hx <;> rw [hx] <;> rfl

/-! ## A completed pass (O31) -/

section
variable {p : PointIndex} {e : PointEntry} {s : State}

/-- R37: a pass that is not too fast lowers the suspect counter. -/
theorem judge_slow (he : s.pointEntry p = some e) (h : (s.point p).lastSpeed ≤ e.ceiling) :
    judge p s = s.setPoint p { s.point p with suspect := (s.point p).suspect - 1 } := by
  simp [judge, he, judgedSuspect, Nat.not_lt.2 h]

/-- R38: below the limit a suspect pass raises it. -/
theorem judge_fast (he : s.pointEntry p = some e) (h : e.ceiling < (s.point p).lastSpeed)
    (hlt : (s.point p).suspect + 1 < e.suspectLimit) :
    judge p s = s.setPoint p { s.point p with suspect := (s.point p).suspect + 1 } := by
  simp [judge, he, judgedSuspect, h, Nat.not_le.2 hlt]

/-- R40: at the limit it is set to 0 and FAULTED(SUSPECT) is requested. -/
theorem judge_limit (he : s.pointEntry p = some e) (h : e.ceiling < (s.point p).lastSpeed)
    (hle : e.suspectLimit ≤ (s.point p).suspect + 1) :
    judge p s =
      { s.setPoint p { s.point p with suspect := 0 } with
        points :=
          { (s.setPoint p { s.point p with suspect := 0 }).points with
            request := some { point := p, cause := .suspect } } } := by
  simp [judge, he, judgedSuspect, h, hle]

/-- A judgement writes the suspect counter of its point and nothing else of the points. -/
theorem judge_point (he : s.pointEntry p = some e) (q : PointIndex) :
    (judge p s).point q = if q = p then { s.point p with suspect := ((judge p s).point p).suspect } else s.point q := by
  obtain ⟨n, hn⟩ : ∃ n, ∀ q, (judge p s).point q = if q = p then { s.point p with suspect := n } else s.point q := by
    rcases Nat.lt_or_ge e.ceiling (s.point p).lastSpeed with hfast | hslow
    · rcases Nat.lt_or_ge ((s.point p).suspect + 1) e.suspectLimit with hlt | hle
      · rw [judge_fast he hfast hlt]
        exact ⟨_, fun q => setPoint_point s p q _⟩
      · rw [judge_limit he hfast hle]
        exact ⟨_, fun q => setPoint_point s p q _⟩
    · rw [judge_slow he hslow]
      exact ⟨_, fun q => setPoint_point s p q _⟩
  rw [hn q, hn p]
  simp

/-- R56: a judgement changes no phase. -/
theorem judge_occupiedWith (he : s.pointEntry p = some e) (n : Nat) (i : SectionIndex) :
    (judge p s).OccupiedWith n i ↔ s.OccupiedWith n i := by
  have hphase : ∀ q, ((judge p s).point q).status = (s.point q).status ∧ ((judge p s).point q).phase = (s.point q).phase :=
    fun q => by
      rw [judge_point he q]
      by_cases hq : q = p <;> simp [hq]
  simp only [State.OccupiedWith, boundaries_congr (s := s) (t := judge p s) (by simp), hphase]

end

/-- R36: a completed pass, before it is judged. -/
def State.passed (s : State) (r : EventRecord) (d : Direction) : State :=
  announcePass r.point d
    (s.taken.setPoint r.point
      { s.point r.point with seqRef := some r.seq, phase := .idle, lead := none, lastDirection := some d })

theorem passed_point (s : State) (r : EventRecord) (d : Direction) (q : PointIndex) :
    (s.passed r d).point q =
      if q = r.point then
        { s.point r.point with seqRef := some r.seq, phase := .idle, lead := none, lastDirection := some d }
      else s.point q := by
  rw [State.passed, announcePass_point, setPoint_point, taken_point]

/-- R50, R51: what the pass does at the sections of the point, and the latch it may set. -/
theorem passed_counts {r : EventRecord} {s u : State} {d : Direction}
    (hd : (s.sides r.point).sideA = none ∨ (s.sides r.point).sideA ≠ (s.sides r.point).sideB)
    (hu : u.sections = (s.passed r d).sections ∧ u.tables = (s.passed r d).tables ∧ u.peer = (s.passed r d).peer
      ∧ u.reports = (s.passed r d).reports) (ho : ∀ n i, u.OccupiedWith n i ↔ (s.passed r d).OccupiedWith n i) :
    Counts r.point d s u
      ∧ (s.passed r d).attention.latches = s.attention.latches ||| entryLatch (s.sidesOf r.point) s u := by
  obtain ⟨hsections, htables, hpeer, hreports⟩ := hu
  let v := s.taken.setPoint r.point
    { s.point r.point with seqRef := some r.seq, phase := .idle, lead := none, lastDirection := some d }
  have hsides : v.sides r.point = s.sides r.point := sides_congr (by simp [v]) _
  obtain ⟨hcounts, hframe⟩ := announcePass_spec r.point d v (by rwa [hsides])
  refine ⟨counts_congr hcounts (by simp [v]) (by simp [v]) (by simp [v]) (by simp [v]) (by simp [v]) hsections htables hpeer
    hreports ho, ?_⟩
  have hlatches : (s.passed r d).attention.latches = v.attention.latches ||| entryLatch (v.sidesOf r.point) v (s.passed r d) :=
    congrArg (fun t => t.attention.latches) hframe
  rw [hlatches, sidesOf_congr (s := s) (by simp [v])]
  have hentry : entryLatch (s.sidesOf r.point) v (s.passed r d) = entryLatch (s.sidesOf r.point) s u :=
    entryLatch_congr fun i _ =>
      ⟨sect_congr (by simp [v]) i, (sect_congr (congrArg SectionCounter.records hsections) i).symm⟩
  rw [hentry]
  simp [v]

/-- Settles O31: the pass counted, then judged. -/
theorem passCompleted : Obligations.PassCompleted := by
  intro r d e s h he hphase h1 h2 hd
  have hcell : phaseCell ((s.stepping r).point r.point).phase r.s1 r.s2 = .complete d := by
    rw [stepping_point_same, h1, h2]
    rcases hphase with ⟨hx, rfl⟩ | ⟨hx, rfl⟩ <;> rw [hx] <;> rfl
  have hexec : Machine.exec .recordApply s = .next (arbitrate (judge r.point (s.passed r d))) := by
    rw [h.exec, phaseStep_complete hcell, stepping_setPoint, stepping_point_same]
    rfl
  have he' : (s.passed r d).pointEntry r.point = some e := by
    rw [pointEntry_congr (s := s) (by simp [State.passed]), he]
  have hpoint := passed_point s r d r.point
  rw [if_pos rfl] at hpoint
  have hsuspect : ((s.passed r d).point r.point).suspect = (s.point r.point).suspect := by rw [hpoint]
  have hrequest : (s.passed r d).points.request = s.points.request := by simp [State.passed]
  obtain ⟨hcounts, hlatches⟩ := passed_counts (u := judge r.point (s.passed r d)) hd (by simp) (judge_occupiedWith he')
  refine ⟨judge r.point (s.passed r d), hexec, ?_, hcounts, fun q hq => ?_, ?_, fun hslow => ?_, fun hfast hlt => ?_,
    fun hfast hle => ?_⟩
  · exact state_ext ⟨by simp [State.passed], by simp [State.passed], by simp [State.passed], by simp [State.passed],
      points_ext (by simp [State.passed]), rfl, rfl, rfl, by simp [State.passed], by simp [State.passed],
      attention_ext ⟨by simpa using hlatches, by simp [State.passed]⟩, by simp [State.passed], by simp [State.passed]⟩
  · rw [judge_point he', if_neg hq, passed_point, if_neg hq]
  · rw [judge_point he', if_pos rfl, hpoint]
  · rw [judge_slow he' (by rw [hpoint]; exact hslow), setPoint_point_same, hsuspect]
    exact ⟨rfl, by simpa using hrequest⟩
  · rw [judge_fast he' (by rw [hpoint]; exact hfast) (by rw [hpoint]; exact hlt), setPoint_point_same, hsuspect]
    exact ⟨rfl, by simpa using hrequest⟩
  · rw [judge_limit he' (by rw [hpoint]; exact hfast) (by rw [hpoint]; exact hle)]
    exact ⟨congrArg PointRecord.suspect (setPoint_point_same (s.passed r d) r.point _), rfl⟩

end Sys2Proof.Machine
end

section
/-! PROOFS. The timers of the sections and of the Report Scheduler, and the Peer Comparator (chapters 3, 5 and 6). -/

namespace Sys2Proof.Machine

/-! ## Settling (O32) -/

section
variable {i : SectionIndex} {s : State}

theorem exec_settleTimerExpiry (i : SectionIndex) (s : State) :
    exec (.settleTimerExpiry i.val) s =
      powered s (onlyIf (s.settleDue i) s (arbitrate (s.commitSect i (s.settled i)))) := by
  simp [exec, execSettleTimerExpiry]

/-- R109: the peer condition. -/
theorem peerCondition_iff : s.peerCondition i = true ↔
    s.sectionConfigured i = true ∧ s.peer.state = .present
      ∧ ∃ r e, s.tables.params = some r ∧ s.peerEntry i = some e
        ∧ (e.state = .awaitPeer ∨ e.state = .clear) ∧ (s.now - e.arrival).toNat ≤ r.silenceLimit * 100 := by
  simp only [State.peerCondition, Bool.and_eq_true, decide_eq_true_eq, and_assoc]
  cases s.tables.params <;> cases s.peerEntry i <;> simp [-BitVec.toNat_sub]

/-- R61: without a peer. -/
theorem settled_alone (h : s.peerAddress = 0) :
    s.settled i = { s.sect i with state := .clear, serial := (s.sect i).serial + 1, settle := none } := by
  simp [State.settled, h, SectionRecord.enter]

/-- R62, R110: the peer condition met at once, with two serial steps. -/
theorem settled_granted (h : s.peerAddress ≠ 0) (hc : s.peerCondition i = true) :
    s.settled i = { s.sect i with state := .clear, serial := (s.sect i).serial + 2, settle := none } := by
  rw [State.settled, if_neg h]
  simp [hc, SectionRecord.enter, BitVec.add_assoc]

/-- R62: the wait for the peer. -/
theorem settled_waits (h : s.peerAddress ≠ 0) (hc : ¬s.peerCondition i = true) :
    s.settled i = { s.sect i with state := .awaitPeer, serial := (s.sect i).serial + 1, settle := none } := by
  rw [State.settled, if_neg h]
  simp [hc, SectionRecord.enter]

/-- R69: a change of state is told. -/
theorem commitSect_told_state {r : SectionRecord} (h : r.state ≠ (s.sect i).state) : Told [i] s (s.commitSect i r) := by
  have htold := commitSect_told s i r
  rwa [changed_singleton, commitSect_sect, if_pos rfl, if_neg fun heq => h heq.1] at htold

/-- What a settle timer that has run out leaves. -/
theorem commitSect_settled {r : SectionRecord} (h : s.settled i = r) (hne : r.state ≠ (s.sect i).state)
    (hp : s.pwron = false) (hdue : s.settleDue i = true) :
    ∃ u, exec (.settleTimerExpiry i.val) s = .next (arbitrate u)
      ∧ u = { s with sections := u.sections, peer := u.peer, reports := u.reports }
      ∧ (∀ j, u.sect j = if j = i then r else s.sect j)
      ∧ u.sections.sideMap = s.sections.sideMap
      ∧ Told [i] s u :=
  ⟨_, by rw [exec_settleTimerExpiry, powered_onlyIf hp hdue, h], commitSect_frame s i r, fun j => commitSect_sect s i j r,
    by simp, commitSect_told_state hne⟩

end

/-- Settles O32, by what the settled record is. -/
theorem settleTimerExpires : Obligations.SettleTimerExpires := by
  intro i m s hp hst hm
  have hdue : m.length ≤ (s.now - m.start).toNat → s.settleDue i = true := fun h => settleDue_iff.2 ⟨hst, m, hm, h⟩
  refine ⟨fun hyoung => ?_, fun hlate h0 => ?_, fun hlate h0 hgranted => ?_, fun hlate h0 hdenied => ?_⟩
  · have hyoung' : ∀ m', (s.sect i).settle = some m' → (s.now - m'.start).toNat < m'.length := fun m' hm' => by
      rw [hm] at hm'
      cases hm'
      exact hyoung
    rw [exec_settleTimerExpiry]
    exact powered_onlyIf_not hp (by simp only [State.settleDue, timerDue_false hyoung', Bool.and_false])
  · exact commitSect_settled (settled_alone h0) (by simp [hst]) hp (hdue hlate)
  · exact commitSect_settled (settled_granted h0 (peerCondition_iff.2 hgranted)) (by simp [hst]) hp (hdue hlate)
  · exact commitSect_settled (settled_waits h0 (mt peerCondition_iff.1 hdenied)) (by simp [hst]) hp (hdue hlate)

/-! ## The compare timer (O33) -/

theorem exec_compareTimerExpiry (i : SectionIndex) (s : State) :
    exec (.compareTimerExpiry i.val) s = powered s (onlyIf (s.compareDue i) s (arbitrate (compareExpired i s))) := by
  simp [exec, execCompareTimerExpiry]

/-- Settles O33: the disturbance of R65. -/
theorem compareTimerExpires : Obligations.CompareTimerExpires := by
  intro i m s hp hm
  rw [exec_compareTimerExpiry]
  have hdue : m.length ≤ (s.now - m.start).toNat → s.compareDue i = true := fun h => compareDue_iff.2 ⟨m, hm, h⟩
  have hsect : (s.setCompare i none).sect i = s.sect i := sect_congr (by simp) i
  refine ⟨fun hyoung => powered_onlyIf_not hp ?_, fun hlate hd => ?_, fun hlate hd => ?_⟩
  · refine timerDue_false fun m' hm' => ?_
    rw [hm] at hm'
    cases hm'
    exact hyoung
  · rw [powered_onlyIf hp (hdue hlate), compareExpired, disturb, if_pos (by rwa [hsect])]
  · refine ⟨_, powered_onlyIf hp (hdue hlate), ?_, disturb_disturbs _ _ _⟩
    have hentry : entryLatch [i] (s.setCompare i none) (compareExpired i s) = Latch.sectionDisturbed.mask := by
      have hrecord := (disturb_disturbs .peerMismatch i (s.setCompare i none)).records i
      rw [hsect, if_pos ⟨by simp, hd⟩] at hrecord
      unfold entryLatch compareExpired
      simp [hsect, hd, hrecord, SectionRecord.nowDisturbed]
    have hframe := disturb_frame .peerMismatch i (s.setCompare i none)
    rw [← compareExpired, hentry] at hframe
    refine hframe.trans (state_ext ⟨by simp, by simp, by simp, by simp, by simp, rfl, rfl, rfl, by simp, by simp,
      by simp, by simp, by simp⟩)

/-! ## Partner reports (O35, O36, O37) -/

section
variable {s : State} {e : ReportEntry} {r : Report} {p : ParamRecord}

theorem snoop_takeReport {t : Telegram} (hk : t.kind = 0x42) (hp : s.tables.params = some p) (h0 : p.peerAddress ≠ 0)
    (hsource : t.source = p.peerAddress) (hown : t.source ≠ s.ring.ownAddress) (hm : s.tables.mode ≠ .config)
    (hr : CarriesReport t.payload r) : snoop t s = takeReport r s := by
  have haddress : s.peerAddress = p.peerAddress := by simp [State.peerAddress, hp]
  have hpeer : ¬(s.peerAddress = 0 ∨ t.source ≠ s.peerAddress ∨ t.source = s.ring.ownAddress ∨ s.tables.mode = .config) := by
    rw [haddress]
    tauto
  have hk1 : t.kind ≠ kindHeadState := by rw [hk]; decide
  rw [snoop, if_neg hk1, if_pos (by rw [hk]; rfl), snoopReport, if_neg hpeer, reportOf_iff.2 hr]

theorem restartSilence_eq (hp : s.tables.params = some p) :
    restartSilence s =
      { s with peer := { s.peer with silence := some { start := s.now, length := p.silenceLimit * 100 } } } := by
  simp [restartSilence, hp, State.startTimer]

/-- R98: the own version. -/
theorem takeReport_agrees (hp : s.tables.params = some p) (hv : r.version = s.tables.version) :
    takeReport r s =
      r.entries.foldl takeEntry
        { s with
          peer :=
            { s.peer with
              silence := some { start := s.now, length := p.silenceLimit * 100 }
              state := .present } } := by
  simp [takeReport, restartSilence_eq hp, checkVersion, hv]

/-- R98: another version, again. -/
theorem takeReport_stays (hp : s.tables.params = some p) (hv : r.version ≠ s.tables.version)
    (hm : s.peer.state = .mismatched) :
    takeReport r s =
      { s with peer := { s.peer with silence := some { start := s.now, length := p.silenceLimit * 100 } } } := by
  simp [takeReport, restartSilence_eq hp, checkVersion, hv, hm]

/-- R98: another version, for the first time. -/
theorem takeReport_leaves (hp : s.tables.params = some p) (hv : r.version ≠ s.tables.version)
    (hm : s.peer.state ≠ .mismatched) :
    takeReport r s =
      { s with
        peer :=
          { state := .mismatched
            silence := some { start := s.now, length := p.silenceLimit * 100 }
            entries := Vector.replicate 32 none
            compare := Vector.replicate 32 none }
        attention := { s.attention with latches := s.attention.latches ||| Latch.peerConfig.mask } } := by
  simp [takeReport, restartSilence_eq hp, checkVersion, hv, hm, leavePeer, State.raise]

end

/-- Settles O35, by the rows of Table 5-2. -/
theorem partnerReportTaken : Obligations.PartnerReportTaken := by
  intro t p r s h hk hp h0 hsource hown hm hr
  have hsnoop : snoop t s.gapSeen = takeReport r s.gapSeen := snoop_takeReport hk hp h0 hsource hown hm hr
  have hexec := h.exec_no_request (.inr hown) (by rw [hk]; decide)
  rw [hsnoop] at hexec
  refine ⟨fun hv => ?_, fun hv hst => ?_, fun hv hst => ?_⟩
  · rw [hexec, takeReport_agrees (s := s.gapSeen) hp hv]
    rfl
  · rw [hexec, takeReport_stays (s := s.gapSeen) hp hv hst]
    rfl
  · rw [hexec, takeReport_leaves (s := s.gapSeen) hp hv hst]
    rfl

/-- R102, R105: an entry written and its section evaluated. -/
def State.heard (s : State) (e : ReportEntry) : State :=
  evaluate e.index
    (s.setPeerEntry e.index (some { state := e.state, count := e.count, serial := e.serial, arrival := s.now }))

section
variable {s : State} {e : ReportEntry}

@[simp] theorem heard_keeps (s : State) (e : ReportEntry) :
    (s.heard e).now = s.now ∧ (s.heard e).pwron = s.pwron ∧ (s.heard e).warm = s.warm ∧ (s.heard e).ring = s.ring
      ∧ (s.heard e).points = s.points ∧ (s.heard e).sections = s.sections ∧ (s.heard e).reports = s.reports
      ∧ (s.heard e).requests = s.requests ∧ (s.heard e).tables = s.tables ∧ (s.heard e).attention = s.attention
      ∧ (s.heard e).freeCount = s.freeCount ∧ (s.heard e).pending = s.pending
      ∧ (s.heard e).peer.state = s.peer.state ∧ (s.heard e).peer.silence = s.peer.silence := by
  simp [State.heard]

theorem heard_sect (s : State) (e : ReportEntry) (j : SectionIndex) : (s.heard e).sect j = s.sect j :=
  sect_congr (by simp) j

theorem heard_peerEntry (s : State) (e : ReportEntry) (j : SectionIndex) :
    (s.heard e).peerEntry j =
      if j = e.index then some { state := e.state, count := e.count, serial := e.serial, arrival := s.now }
      else s.peerEntry j := by
  rw [← setPeerEntry_peerEntry]
  simp [State.heard, State.peerEntry]

/-- R105: the compare timer of the section follows the evaluation. -/
theorem heard_compareTimer (hp : s.tables.params ≠ none) (j : SectionIndex) :
    (s.heard e).compareTimer j =
      if j = e.index then if (s.heard e).disagree j then (s.compareTimer j).or s.freshCompare else none
      else s.compareTimer j := by
  have h := (evaluate_evaluates e.index
    (s.setPeerEntry e.index (some { state := e.state, count := e.count, serial := e.serial, arrival := s.now }))).compare j
  rw [← State.heard] at h
  rw [h]
  simp [hp, State.compareTimer, State.freshCompare]

/-- R109: an entry just heard is fresh, so the condition turns on the state it shows. -/
theorem heard_peerCondition (hpresent : s.peer.state = .present) (hp : s.tables.params ≠ none)
    (hc : s.sectionConfigured e.index = true) :
    (s.heard e).peerCondition e.index = true ↔ e.state = .awaitPeer ∨ e.state = .clear := by
  obtain ⟨r, hr⟩ := Option.ne_none_iff_exists'.1 hp
  rw [peerCondition_iff, sectionConfigured_congr (s := s) (by simp), heard_peerEntry, if_pos rfl]
  simp [hpresent, hr, hc, -BitVec.toNat_sub]

theorem takeEntry_configured (hc : s.sectionConfigured e.index = true) :
    takeEntry s e = if (s.heard e).peerCondition e.index then peerNotice e.index (s.heard e) else s.heard e := by
  rw [takeEntry, if_pos hc]
  rfl

/-- R62: an entry that lets a section in AWAIT_PEER go to CLEAR. -/
theorem takeEntry_granted (hpresent : s.peer.state = .present) (hp : s.tables.params ≠ none)
    (hc : s.sectionConfigured e.index = true) (hst : (s.sect e.index).state = .awaitPeer)
    (he : e.state = .awaitPeer ∨ e.state = .clear) :
    takeEntry s e = (s.heard e).commitSect e.index ((s.sect e.index).enter .clear) := by
  rw [takeEntry_configured hc, if_pos ((heard_peerCondition hpresent hp hc).2 he), peerNotice, heard_sect, if_pos hst]

theorem takeEntry_not_granted (hpresent : s.peer.state = .present) (hp : s.tables.params ≠ none)
    (hc : s.sectionConfigured e.index = true)
    (hno : ¬((s.sect e.index).state = .awaitPeer ∧ (e.state = .awaitPeer ∨ e.state = .clear))) :
    takeEntry s e = s.heard e := by
  rw [takeEntry_configured hc]
  by_cases he : e.state = .awaitPeer ∨ e.state = .clear
  · rw [if_pos ((heard_peerCondition hpresent hp hc).2 he), peerNotice, heard_sect, if_neg fun hst => hno ⟨hst, he⟩]
  · rw [if_neg (mt (heard_peerCondition hpresent hp hc).1 he)]

/-- R103 looks at the state of a section only for whether it is DISTURBED. -/
theorem disagree_of_not_disturbed {t : State} {i : SectionIndex} (ht : t.tables.sections = s.tables.sections)
    (hp : t.peer.state = s.peer.state) (he : t.peerEntry i = s.peerEntry i) (hs : (s.sect i).state ≠ .disturbed)
    (hst : (t.sect i).state ≠ .disturbed) (hc : (t.sect i).count = (s.sect i).count) : t.disagree i = s.disagree i := by
  simp only [State.disagree, sectionConfigured_congr ht, hp, he, hs, hst, hc]

/-- R105, R62: the compare timers after an entry, whether or not it let its section go to CLEAR. -/
theorem takeEntry_compareTimer (hpresent : s.peer.state = .present) (hp : s.tables.params ≠ none)
    (hc : s.sectionConfigured e.index = true) (j : SectionIndex) :
    (takeEntry s e).compareTimer j =
      if j = e.index then if (takeEntry s e).disagree j then (s.compareTimer j).or s.freshCompare else none
      else s.compareTimer j := by
  by_cases hgrant : (s.sect e.index).state = .awaitPeer ∧ (e.state = .awaitPeer ∨ e.state = .clear)
  · obtain ⟨hst, he⟩ := hgrant
    have hsame : (takeEntry s e).disagree e.index = (s.heard e).disagree e.index := by
      have hsect : (takeEntry s e).sect e.index = (s.sect e.index).enter .clear := by
        rw [takeEntry_granted hpresent hp hc hst he, commitSect_sect, if_pos rfl]
      apply disagree_of_not_disturbed
      · simp
      · simp
      · simp [takeEntry_granted hpresent hp hc hst he, State.peerEntry]
      · simp [heard_sect, hst]
      · simp [hsect, SectionRecord.enter]
      · simp [hsect, heard_sect, SectionRecord.enter]
    have hfresh : (s.heard e).freshCompare = s.freshCompare := by simp [State.freshCompare]
    have htold : Told [e.index] (s.heard e) (takeEntry s e) := by
      rw [takeEntry_granted hpresent hp hc hst he]
      exact commitSect_told_state (by simp [heard_sect, hst, SectionRecord.enter])
    rw [htold.evaluates.compare j, heard_compareTimer hp, hfresh]
    by_cases hj : j = e.index
    · subst hj
      rw [hsame]
      cases hd : (s.heard e).disagree e.index <;> simp [hp, Option.or_assoc]
    · simp [hj]
  · rw [takeEntry_not_granted hpresent hp hc hgrant, heard_compareTimer hp]

theorem takeEntry_peerEntry (hpresent : s.peer.state = .present) (hp : s.tables.params ≠ none)
    (hc : s.sectionConfigured e.index = true) (j : SectionIndex) :
    (takeEntry s e).peerEntry j =
      if j = e.index then some { state := e.state, count := e.count, serial := e.serial, arrival := s.now }
      else s.peerEntry j := by
  rw [← heard_peerEntry]
  by_cases hgrant : (s.sect e.index).state = .awaitPeer ∧ (e.state = .awaitPeer ∨ e.state = .clear)
  · simp [takeEntry_granted hpresent hp hc hgrant.1 hgrant.2, State.peerEntry]
  · rw [takeEntry_not_granted hpresent hp hc hgrant]

end

/-- Queueing reads the sections table, the parameter record, the time and the Report Scheduler. -/
theorem Queues.congr {l : List SectionIndex} {s s' t t' : State} (h : Queues l s t)
    (ht : s'.tables.sections = s.tables.sections ∧ s'.tables.params = s.tables.params) (hn : s'.now = s.now)
    (hr : s'.reports = s.reports) (hr' : t'.reports = t.reports) : Queues l s' t' := by
  obtain ⟨queue, hold, pointer, timer⟩ := h
  obtain ⟨hsections, hparams⟩ := ht
  have hnew : s'.newcomers l = s.newcomers l := by simp only [State.newcomers, State.sectionConfigured, hsections, hr]
  have hfresh : s'.freshHold = s.freshHold := by simp only [State.freshHold, hsections, hparams, hn, hr]
  exact ⟨by rw [hr', queue, hnew, hr], by rw [hr', hold, hnew, hfresh, hr], by rw [hr', pointer, hr],
    by rw [hr', timer, hr]⟩

/-- Settles O36. -/
theorem reportEntryTaken : Obligations.ReportEntryTaken := by
  intro e s hpresent hp
  refine ⟨fun hc => by simp [takeEntry, hc], fun hc => ?_⟩
  refine ⟨eq_with_track (by simp), takeEntry_peerEntry hpresent hp hc, by simpa using hpresent, by simp,
    takeEntry_compareTimer hpresent hp hc, by simp, ?_, fun hno => ?_⟩
  · rintro ⟨hst, he⟩
    rw [takeEntry_granted hpresent hp hc hst he]
    refine ⟨?_, fun j => ?_⟩
    · have htold : Told [e.index] (s.heard e) ((s.heard e).commitSect e.index ((s.sect e.index).enter .clear)) :=
        commitSect_told_state (by simp [heard_sect, hst, SectionRecord.enter])
      exact htold.queues.congr (by simp) (by simp) (by simp) rfl
    · rw [commitSect_sect, heard_sect]
      by_cases hj : j = e.index
      · simp [hj, SectionRecord.enter]
      · simp [hj]
  · rw [takeEntry_not_granted hpresent hp hc hno]
    simp

/-- Settles O37. -/
theorem peerSilenceExpires : Obligations.PeerSilenceExpires := by
  intro m s hp hm
  refine ⟨fun hyoung => powered_onlyIf_not hp (timerDue_false fun m' hm' => ?_),
    fun hlate => powered_onlyIf hp (silenceDue_iff.2 ⟨m, hm, hlate⟩)⟩
  rw [hm] at hm'
  cases hm'
  exact hyoung

/-! ## The cycle and the hold timer (O38) -/

theorem reports_ext {a b : ReportScheduler} (h : a.queue = b.queue ∧ a.cyclePointer = b.cyclePointer
    ∧ a.cycleTimer = b.cycleTimer ∧ a.hold = b.hold) : a = b := by
  cases a
  cases b
  simp_all

section
variable {s : State} {k : SectionIndex}

/-- R118: the search upward from the cycle pointer, wrapping. -/
theorem cycleFind_eq (hfound : s.sectionConfigured (s.reports.cyclePointer + k) = true)
    (hbefore : ∀ j, j < k → s.sectionConfigured (s.reports.cyclePointer + j) = false) :
    s.cycleFind = some (s.reports.cyclePointer + k) := by
  have hfind : (List.finRange 32).find? (fun j => s.sectionConfigured (s.reports.cyclePointer + j)) = some k := by
    rw [find_of_sorted _ (List.pairwise_lt_finRange 32)]
    exact ⟨List.mem_finRange k, hfound, fun j _ => hbefore j⟩
  rw [State.cycleFind, List.find?_map]
  exact congrArg (Option.map _) hfind

/-- R114, R120: what a section queued leaves, as one state. -/
theorem queueReport_eq {i : SectionIndex} : queueReport i s =
    { s with
      reports :=
        { s.reports with
          queue := s.reports.queue ++ s.newcomers [i]
          hold := if s.reports.queue = [] ∧ s.newcomers [i] ≠ [] then s.freshHold else s.reports.hold } } := by
  obtain ⟨queue, hold, pointer, timer⟩ := queueReport_queues i s
  exact state_ext ⟨by simp, by simp, by simp, by simp, by simp, by simp, by simp, reports_ext ⟨queue, pointer, timer, hold⟩,
    by simp, by simp, by simp, by simp, by simp⟩

end

theorem exec_cycleStep (s : State) : exec .cycleStep s = powered s (onlyIf s.cycleDue s (arbitrate (cycle s))) := rfl

/-- Settles O38. -/
theorem reportTimersExpire : Obligations.ReportTimersExpire := by
  refine fun m s hp => ⟨fun r k hr hs hm => ⟨fun hyoung => ?_, fun hlate hfound hbefore => ?_⟩,
    fun hm => ⟨fun hyoung => ?_, fun hlate => ?_⟩⟩
  · refine powered_onlyIf_not hp ?_
    rw [State.cycleDue, timerDue_false fun m' hm' => ?_, Bool.and_false]
    rw [hm] at hm'
    cases hm'
    exact hyoung
  · have hfresh : s.freshHold = .running { start := s.now, length := r.reportHold } := by
      simp [State.freshHold, hr, hs]
    rw [exec_cycleStep, powered_onlyIf hp (cycleDue_iff.2 ⟨by simp [hr], hs, m, hm, hlate⟩), cycle,
      cycleFind_eq hfound hbefore, hr]
    simp only [queueReport_eq, hfresh, State.startTimer]
  · exact powered_onlyIf_not hp (by simp [State.holdDue, hm, Timer.due, Timer.elapsed, Nat.not_le.2 hyoung, -BitVec.toNat_sub])
  · exact powered_onlyIf hp (holdDue_iff.2 ⟨m, hm, hlate⟩)

end Sys2Proof.Machine
end

section
/-! PROOFS. Requests (chapters 8 and 9, 4.2): authority, admission and form, and the requests that read, acknowledge, clear and
restore. -/

namespace Sys2Proof.Machine

/-! ## A request handed over -/

section
variable {source : Byte} {payload : List Byte} {t : Telegram} {s : State}

@[simp] theorem handed_keeps (s : State) (t : Telegram) :
    (s.handed t).now = s.now ∧ (s.handed t).pwron = s.pwron ∧ (s.handed t).warm = s.warm
      ∧ (s.handed t).points = s.points ∧ (s.handed t).sections = s.sections ∧ (s.handed t).peer = s.peer
      ∧ (s.handed t).reports = s.reports ∧ (s.handed t).requests = s.requests ∧ (s.handed t).tables = s.tables
      ∧ (s.handed t).attention = s.attention ∧ (s.handed t).freeCount = s.freeCount
      ∧ (s.handed t).pending = s.pending := by
  simp [State.handed]

/-- R134, R135: a consumed request acts on the state with its copy already on its way. -/
theorem Consumes.exec (h : Consumes source payload t s) :
    exec .completesReception s =
      .next (arbitrate (handleRequest { source := source, payload := payload } (s.handed t))) := by
  obtain ⟨hreceives, hk, hsender, hcontent, hown, hdest, hbuffer, hforeign⟩ := h
  have hs : s.gapSeen.hasOwnAddress = false ∨ t.source ≠ s.gapSeen.ring.ownAddress := .inr (by rw [hsender]; exact hforeign)
  have howned : s.gapSeen.hasOwnAddress = true := hasOwnAddress_iff.2 hown
  rw [hreceives.exec, accept_request hs hk, hsender, hcontent]
  by_cases hd : t.destination = s.ring.ownAddress
  · have hhanded : s.handed t = s.gapSeen := by
      simp only [State.handed, if_pos hd]
      rfl
    rw [if_pos ⟨howned, hd⟩, hhanded]
  · have hroom : s.gapSeen.ring.forward.length < 2 := hbuffer.resolve_left hd
    have hhanded : forwardTelegram t.hopped s.gapSeen = s.handed t := by
      simp only [State.handed, if_neg hd, forwardTelegram, if_pos hroom]
      rfl
    rw [if_neg fun h => hd h.2, if_pos (by exact hdest.resolve_left hd), consumeAndForward_room hroom,
      consume_request (t := t.hopped) hk, hhanded, (hopped_keeps t).2.2.1, (hopped_keeps t).2.2.2.2, hsender, hcontent]

/-- R155: a request that is authorised and admitted. -/
theorem Takes.exec (h : Takes source payload t s) :
    exec .completesReception s =
      .next (arbitrate (formAndExecute { source := source, payload := payload } (s.handed t))) := by
  obtain ⟨hconsumes, hauthorised, hroom⟩ := h
  have hauthorised' : (s.handed t).authorised { source := source, payload := payload } = true := hauthorised
  rw [hconsumes.exec, handleRequest, if_neg (by simp [hauthorised']), if_neg (by simpa using hroom)]

end

/-! ## Codes and lengths (8.2, 8.5) -/

/-- Table 8-8. -/
def RequestCode.code (c : RequestCode) : Byte :=
  match c with
  | .readStatus => 0x01
  | .readSection => 0x02
  | .readPoint => 0x03
  | .ackAttention => 0x04
  | .restoreSweep => 0x05
  | .setAlarmMask => 0x11
  | .restoreDirect => 0x12
  | .clearSuspect => 0x13
  | .enterConfig => 0x20
  | .loadOpen => 0x21
  | .loadEntry => 0x22
  | .loadClose => 0x23
  | .activate => 0x24
  | .restart => 0x30

/-- Table 8-8 read back. -/
theorem requestOfCode_iff {b : Byte} {c : RequestCode} : RequestCode.ofCode b = some c ↔ b = c.code := by
  constructor
  · intro h
    unfold RequestCode.ofCode at h
    split at h <;> cases h
    all_goals exact BitVec.eq_of_toNat_eq ‹_›
  · rintro rfl
    cases c <;> rfl

theorem mem_requestCodes {b : Byte} : b ∈ requestCodes ↔ ∃ c : RequestCode, b = c.code := by
  constructor
  · intro h
    simp only [requestCodes, List.mem_cons, List.not_mem_nil, or_false] at h
    rcases h with rfl | rfl | rfl | rfl | rfl | rfl | rfl | rfl | rfl | rfl | rfl | rfl | rfl | rfl
    exacts [⟨.readStatus, rfl⟩, ⟨.readSection, rfl⟩, ⟨.readPoint, rfl⟩, ⟨.ackAttention, rfl⟩, ⟨.restoreSweep, rfl⟩,
      ⟨.setAlarmMask, rfl⟩, ⟨.restoreDirect, rfl⟩, ⟨.clearSuspect, rfl⟩, ⟨.enterConfig, rfl⟩, ⟨.loadOpen, rfl⟩,
      ⟨.loadEntry, rfl⟩, ⟨.loadClose, rfl⟩, ⟨.activate, rfl⟩, ⟨.restart, rfl⟩]
  · rintro ⟨c, rfl⟩
    cases c <;> decide

theorem ofCode_eq_none {b : Byte} (h : b ∉ requestCodes) : RequestCode.ofCode b = none := by
  cases hc : RequestCode.ofCode b with
  | none => rfl
  | some c => exact absurd (mem_requestCodes.2 ⟨c, requestOfCode_iff.1 hc⟩) h

/-- Table 8-13, Table 8-14: the Length of a request counts its code and tag. -/
theorem requestLength_code (c : RequestCode) (ps : List Byte) :
    requestLength c.code ps.head? = (c.paramBytes ps).map (· + 2) := by
  cases c
  case loadEntry =>
    cases ps with
    | nil => rfl
    | cons x rest =>
      obtain ⟨⟨n, hn⟩⟩ := x
      match n with
      | 0 => rfl
      | 1 => rfl
      | 2 => rfl
      | 3 => rfl
      | _ + 4 => rfl
  all_goals rfl

theorem paramBytes_iff {c : RequestCode} {tag : Byte} {ps : List Byte} :
    c.paramBytes ps = some ps.length ↔ requestLength c.code ps.head? = some (c.code :: tag :: ps).length := by
  rw [requestLength_code]
  cases c.paramBytes ps <;> simp

/-- R159: the requests executed while an activation is in flight. -/
theorem runsInFlight_eq_false {c : RequestCode} (h1 : c.code ≠ 0x01) (h30 : c.code ≠ 0x30) : c.runsInFlight = false := by
  cases c
  case readStatus => exact absurd rfl h1
  case restart => exact absurd rfl h30
  all_goals rfl

/-! ## Authority and admission (O39) -/

/-- 9.2: the operator requests. -/
theorem isOperator_iff {c : RequestCode} :
    c.isOperator = true ↔ c.code ∈ ([0x01, 0x02, 0x03, 0x04, 0x05] : List Byte) := by
  cases c <;> decide

theorem payloadIsOperator_cons (b : Byte) (rest : List Byte) :
    payloadIsOperator (b :: rest) = ((RequestCode.ofCode b).map RequestCode.isOperator).getD false := by
  simp only [payloadIsOperator]
  cases RequestCode.ofCode b <;> rfl

theorem payloadIsOperator_iff {payload : List Byte} :
    payloadIsOperator payload = true ↔
      ∃ c rest, payload = c :: rest ∧ c ∈ ([0x01, 0x02, 0x03, 0x04, 0x05] : List Byte) := by
  cases payload with
  | nil => simp [payloadIsOperator]
  | cons b rest =>
    simp only [payloadIsOperator_cons, List.cons.injEq]
    cases hc : RequestCode.ofCode b with
    | none =>
      have hno : b ∉ ([0x01, 0x02, 0x03, 0x04, 0x05] : List Byte) := fun hb =>
        have hknown : b ∈ requestCodes := List.mem_of_mem_take (i := 5) hb
        absurd (mem_requestCodes.1 hknown) fun ⟨c, hbc⟩ => by rw [requestOfCode_iff.2 hbc] at hc; cases hc
      constructor
      · rintro h
        cases h
      · rintro ⟨c, _, ⟨rfl, -⟩, hmem⟩
        exact absurd hmem hno
    | some c =>
      obtain rfl := requestOfCode_iff.1 hc
      rw [Option.map_some, Option.getD_some, isOperator_iff]
      exact ⟨fun h => ⟨_, rest, ⟨rfl, rfl⟩, h⟩, fun ⟨_, _, ⟨hb, _⟩, h⟩ => hb ▸ h⟩

section
variable {s : State} {source : Byte} {payload : List Byte}

/-- R156: with no record every proper source is the maintenance address. -/
theorem authorised_without_params (h : s.tables.params = none) :
    s.authorised { source := source, payload := payload } = true ↔ source ≠ 0 ∧ source ≠ 255 := by
  simp [State.authorised, State.isMaintenance, State.isInterlocking, h]

/-- Table 9-1. -/
theorem authorised_with_params {r : ParamRecord} (h : s.tables.params = some r) :
    s.authorised { source := source, payload := payload } = true ↔
      source ≠ 0 ∧ source ≠ 255
        ∧ (source = r.maintenanceAddress
          ∨ source = r.interlockingAddress
            ∧ ∃ c rest, payload = c :: rest ∧ c ∈ ([0x01, 0x02, 0x03, 0x04, 0x05] : List Byte)) := by
  rw [← payloadIsOperator_iff]
  simp only [State.authorised, State.isMaintenance, State.isInterlocking, h, Bool.or_eq_true, Bool.and_eq_true, bne_iff_ne,
    beq_iff_eq]
  tauto

end

/-- Settles O39. -/
theorem requestAuthorityAndAdmission : Obligations.RequestAuthorityAndAdmission := by
  intro source payload t s h
  refine ⟨fun hp => authorised_without_params hp, fun r hr => authorised_with_params hr, fun hno => ?_, fun hok hfull => ?_⟩
  · have hno' : (s.handed t).authorised { source := source, payload := payload } = false :=
      Bool.eq_false_iff.2 hno
    rw [h.exec, handleRequest, if_pos hno']
    rfl
  · have hok' : (s.handed t).authorised { source := source, payload := payload } = true := hok
    rw [h.exec, handleRequest, if_neg (by simp [hok']), if_pos (by exact hfull)]
    rfl

/-! ## Form (O40) -/

section
variable {source code tag : Byte} {ps : List Byte} {t : Telegram} {s : State} {c : RequestCode}

theorem formAndExecute_short {payload : List Byte} (h : payload.length < 2) :
    formAndExecute { source := source, payload := payload } s = s := by
  match payload with
  | [] => rfl
  | [_] => rfl
  | _ :: _ :: _ => simp at h

theorem formAndExecute_unknown (h : RequestCode.ofCode code = none) :
    formAndExecute { source := source, payload := code :: tag :: ps } s =
      s.plusAnswer (reply source code tag .unknownRequest []) := by
  simp only [formAndExecute, h]
  rfl

theorem formAndExecute_badLength (h : RequestCode.ofCode code = some c) (hl : c.paramBytes ps ≠ some ps.length) :
    formAndExecute { source := source, payload := code :: tag :: ps } s =
      s.plusAnswer (reply source code tag .badLength []) := by
  simp only [formAndExecute, h, if_pos hl]
  rfl

theorem formAndExecute_busy (h : RequestCode.ofCode code = some c) (hl : c.paramBytes ps = some ps.length)
    (ha : s.requests.activation ≠ none) (hc : c.runsInFlight = false) :
    formAndExecute { source := source, payload := code :: tag :: ps } s =
      s.plusAnswer (reply source code tag .busy []) := by
  have hbusy : (s.requests.activation.isSome && !c.runsInFlight) = true := by
    simp [hc, Option.isSome_iff_ne_none, ha]
  simp only [formAndExecute, h, hl, ne_eq, not_true_eq_false, if_false, hbusy, if_true]
  rfl

theorem formAndExecute_runs (h : RequestCode.ofCode code = some c) (hl : c.paramBytes ps = some ps.length)
    (hr : s.requests.activation = none ∨ c.runsInFlight = true) :
    formAndExecute { source := source, payload := code :: tag :: ps } s = executeRequest c source code tag ps s := by
  have hbusy : (s.requests.activation.isSome && !c.runsInFlight) = false := by
    rcases hr with hr | hr <;> simp [hr]
  simp [formAndExecute, h, hl, hbusy]

/-- R155: a well-formed request is executed. -/
theorem Takes.executes (h : Takes source (c.code :: tag :: ps) t s) (hl : c.paramBytes ps = some ps.length)
    (hr : s.requests.activation = none ∨ c.runsInFlight = true) :
    Machine.exec .completesReception s = .next (arbitrate (executeRequest c source c.code tag ps (s.handed t))) := by
  rw [h.exec, formAndExecute_runs (requestOfCode_iff.2 rfl) hl (by simpa using hr)]

end

/-- Settles O40, by the order of R155. -/
theorem requestFormChecked : Obligations.RequestFormChecked := by
  intro source payload t s h
  refine ⟨fun hshort => by rw [h.exec, formAndExecute_short hshort], ?_⟩
  rintro code tag ps rfl
  refine ⟨fun hno => ?_, fun hcode hl => ?_, fun hcode hl ha h1 h30 => ?_⟩
  · rw [h.exec, formAndExecute_unknown (ofCode_eq_none hno)]
  · obtain ⟨c, rfl⟩ := mem_requestCodes.1 hcode
    rw [h.exec, formAndExecute_badLength (requestOfCode_iff.2 rfl) (mt paramBytes_iff.1 hl)]
  · obtain ⟨c, rfl⟩ := mem_requestCodes.1 hcode
    rw [h.exec, formAndExecute_busy (requestOfCode_iff.2 rfl) (paramBytes_iff.2 hl) (by simpa using ha)
      (runsInFlight_eq_false h1 h30)]

end Sys2Proof.Machine
end

section
/-! PROOFS. The requests that read, acknowledge, clear and restore (9.4, 9.5, 9.7, 9.8 and chapter 4). -/

namespace Sys2Proof.Machine

/-! ## Indices named by a byte -/

section
variable {s : State} {x : Byte}

theorem sectionOfByte_iff_toNat {i : SectionIndex} : sectionOfByte x = some i ↔ x.toNat = i.val := by
  rw [sectionOfByte_iff]
  exact ⟨fun h => by rw [h, toNat_byte (by omega)], fun h => by rw [← h, byte_toNat]⟩

theorem pointOfByte_iff_toNat {p : PointIndex} : pointOfByte x = some p ↔ x.toNat = p.val := by
  rw [pointOfByte_iff]
  exact ⟨fun h => by rw [h, toNat_byte (by omega)], fun h => by rw [← h, byte_toNat]⟩

theorem configuredSection_eq_some {i : SectionIndex} (hx : x.toNat = i.val) (hc : s.sectionConfigured i = true) :
    s.configuredSection x = some i := by
  simp [State.configuredSection, sectionOfByte_iff_toNat.2 hx, hc]

theorem configuredSection_eq_none (h : ∀ i : SectionIndex, x.toNat = i.val → s.sectionConfigured i = false) :
    s.configuredSection x = none := by
  unfold State.configuredSection
  split
  · rfl
  · rename_i i hi
    rw [h i (sectionOfByte_iff_toNat.1 hi)]
    rfl

theorem configuredPoint_eq_some {p : PointIndex} (hx : x.toNat = p.val) (hc : s.pointConfigured p = true) :
    s.configuredPoint x = some p := by
  simp [State.configuredPoint, pointOfByte_iff_toNat.2 hx, hc]

theorem configuredPoint_eq_none (h : ∀ p : PointIndex, x.toNat = p.val → s.pointConfigured p = false) :
    s.configuredPoint x = none := by
  unfold State.configuredPoint
  split
  · rfl
  · rename_i p hp
    rw [h p (pointOfByte_iff_toNat.1 hp)]
    rfl

end

/-! ## Answers -/

/-- R153, R158: an executed request and its answer. -/
theorem answered_eq (source code tag : Byte) (x : Executed) :
    answered source code tag x = x.state.plusAnswer (reply source code tag x.outcome x.data) := rfl

theorem flagByte_isSome {α : Type} (o : Option α) [Decidable (o = none)] :
    flagByte o.isSome = if o = none then 0 else 1 := by
  cases o <;> simp [flagByte]

/-! ## Reading requests (O41) -/

section
variable {s : State} {x : Byte}

/-- Log 27: a table is held when it has an entry. -/
theorem heldByte_eq (s : State) :
    s.heldByte =
      byte
        ((if s.tables.points = [] then 0 else 1) + (if s.tables.sections = [] then 0 else 2)
          + (if s.tables.params = none then 0 else 4) + (if s.tables.activated then 8 else 0)) := by
  have hparams : (if s.tables.params.isSome then 4 else 0) = if s.tables.params = none then 0 else 4 := by
    cases s.tables.params <;> simp
  simp only [State.heldByte, List.isEmpty_iff, hparams]

theorem readSection_configured {i : SectionIndex} (h : s.configuredSection x = some i) :
    readSection s [x] =
      done s
        ([x, (s.sect i).state.code] ++ twoBytes (s.sect i).count
          ++ [(s.sect i).serial, (s.sect i).cause.code, byte (settleSteps (s.sect i).settle s.now),
              flagByte (s.compareTimer i).isSome]
          ++ s.peerBytes i) := by
  have hx : s.configuredSection (paramByte [x] 0) = some i := h
  simp only [readSection, hx]
  rfl

theorem readSection_badIndex (h : s.configuredSection x = none) : readSection s [x] = refuse s .badIndex [x] := by
  have hx : s.configuredSection (paramByte [x] 0) = none := h
  simp only [readSection, hx]
  rfl

theorem readPoint_index {p : PointIndex} (h : pointOfByte x = some p) :
    readPoint s [x] =
      done s
        ([x, (s.point p).status.code, (s.point p).phase.code, (s.point p).cause.code, byte (s.point p).run]
          ++ twoBytes (s.point p).lastSpeed ++ [directionCode (s.point p).lastDirection, byte (s.point p).suspect]
          ++ seqRefBytes (s.point p).seqRef) := by
  have hx : pointOfByte (paramByte [x] 0) = some p := h
  simp only [readPoint, hx]
  rfl

theorem readPoint_badIndex (h : pointOfByte x = none) : readPoint s [x] = refuse s .badIndex [x] := by
  have hx : pointOfByte (paramByte [x] 0) = none := h
  simp only [readPoint, hx]
  rfl

end

/-- R59: the time left in steps of 100 ms, rounded up, and 1 at the moment of expiry (log 25). -/
theorem settleSteps_running (m : Timer) (now : Time) :
    let steps := settleSteps (some m) now
    let left := m.length - (now - m.start).toNat
    (0 < left → 100 * steps < left + 100 ∧ left ≤ 100 * steps)
      ∧ (left = 0 → steps = 1)
      ∧ (m.length ≤ 25500 → 1 ≤ steps ∧ steps ≤ 255) := by
  have hsteps : settleSteps (some m) now = max 1 ((m.length - (now - m.start).toNat + 99) / 100) := rfl
  intro steps left
  have hle : left ≤ m.length := Nat.sub_le _ _
  have heq : steps = max 1 ((left + 99) / 100) := hsteps
  generalize left = n at hle heq
  omega

/-- Settles O41. -/
theorem readRequestsAnswered : Obligations.ReadRequestsAnswered := by
  intro source tag x t s
  refine ⟨fun h => (h.executes (c := .readStatus) (ps := []) rfl (.inr rfl)).trans ?_,
    fun h ha => ⟨fun i hx hc => (h.executes (c := .readSection) (ps := [x]) rfl (.inl ha)).trans ?_,
      fun hno => (h.executes (c := .readSection) (ps := [x]) rfl (.inl ha)).trans ?_⟩,
    fun h ha => ⟨fun p hx => (h.executes (c := .readPoint) (ps := [x]) rfl (.inl ha)).trans ?_,
      fun hbig => (h.executes (c := .readPoint) (ps := [x]) rfl (.inl ha)).trans ?_⟩,
    rfl, fun m => settleSteps_running m s.now⟩
  · refine congrArg (fun d => Host.Outcome.next (arbitrate ((s.handed t).plusAnswer (reply source 0x01 tag .done d)))) ?_
    exact congrArg₂ (fun flag held => [s.tables.mode.code] ++ twoBytes s.attention.latches.toNat
        ++ twoBytes s.attention.mask.toNat ++ [s.peer.state.code, s.ring.loop.code] ++ twoBytes s.tables.version.toNat
        ++ s.loadBytes ++ [flag, held])
      (flagByte_isSome s.requests.activation) (heldByte_eq s)
  · rw [executeRequest, readSection_configured (configuredSection_eq_some (s := s.handed t) hx hc), flagByte_isSome]
    rfl
  · rw [executeRequest, readSection_badIndex (configuredSection_eq_none (s := s.handed t) hno)]
    rfl
  · rw [executeRequest, readPoint_index (pointOfByte_iff_toNat.2 hx)]
    rfl
  · have hnone : pointOfByte x = none := by simp [pointOfByte, Nat.not_lt.2 hbig]
    rw [executeRequest, readPoint_badIndex hnone]
    rfl

/-! ## Attention and suspect counters (O42) -/

/-- Bits 13 to 15 of a mask are ignored (R166, R167). -/
theorem truncate_paramWord (x y : Byte) :
    (BitVec.ofNat 16 (paramWord [x, y] 0)).truncate 13 = BitVec.ofNat 13 (x.toNat * 256 + y.toNat) := by
  have hword : paramWord [x, y] 0 = x.toNat * 256 + y.toNat := rfl
  rw [hword]
  exact BitVec.setWidth_ofNat_of_le (by decide) _

section
variable {s : State} {x y : Byte}

theorem ackAttention_eq :
    ackAttention s [x, y] =
      done
        { s with
          attention :=
            { s.attention with
              latches := s.attention.latches &&& ~~~(BitVec.ofNat 13 (x.toNat * 256 + y.toNat)) } }
        (twoBytes (s.attention.latches &&& ~~~(BitVec.ofNat 13 (x.toNat * 256 + y.toNat))).toNat) := by
  simp only [ackAttention, State.acknowledge, truncate_paramWord]

theorem setMask_eq :
    setMask s [x, y] =
      done { s with attention := { s.attention with mask := BitVec.ofNat 13 (x.toNat * 256 + y.toNat) } }
        (twoBytes (BitVec.ofNat 13 (x.toNat * 256 + y.toNat)).toNat) := by
  simp only [setMask, State.setAlarmMask, truncate_paramWord]

theorem clearSuspect_configured {p : PointIndex} (h : s.configuredPoint x = some p) :
    clearSuspect s [x] = done (s.setPoint p { s.point p with suspect := 0 }) [x] := by
  have hx : s.configuredPoint (paramByte [x] 0) = some p := h
  simp only [clearSuspect, hx]
  rfl

theorem clearSuspect_badIndex (h : s.configuredPoint x = none) : clearSuspect s [x] = refuse s .badIndex [x] := by
  have hx : s.configuredPoint (paramByte [x] 0) = none := h
  simp only [clearSuspect, hx]
  rfl

end

/-- Settles O42. -/
theorem attentionAndSuspectRequests : Obligations.AttentionAndSuspectRequests := by
  intro source tag x y t s ha
  refine ⟨fun h => (h.executes (c := .ackAttention) (ps := [x, y]) rfl (.inl ha)).trans ?_,
    fun h => (h.executes (c := .setAlarmMask) (ps := [x, y]) rfl (.inl ha)).trans ?_,
    fun h => ⟨fun p hx hc => (h.executes (c := .clearSuspect) (ps := [x]) rfl (.inl ha)).trans ?_,
      fun hno => (h.executes (c := .clearSuspect) (ps := [x]) rfl (.inl ha)).trans ?_⟩⟩
  · rw [executeRequest, ackAttention_eq]
    rfl
  · rw [executeRequest, setMask_eq]
    rfl
  · rw [executeRequest, clearSuspect_configured (configuredPoint_eq_some (s := s.handed t) hx hc)]
    rfl
  · rw [executeRequest, clearSuspect_badIndex (configuredPoint_eq_none (s := s.handed t) hno)]
    rfl

/-! ## Restorations (O44) -/

/-- The restoration a request code asks for. -/
def restorationKind (direct : Bool) : Restoration := if direct then .direct else .sweep

section
variable {kind : Restoration} {s : State} {source x n : Byte} {i : SectionIndex}

/-! ### The checks of Table 4-2, each with those before it passed -/

theorem restore_wrongMode (h : s.tables.mode ≠ .service) :
    restoreSection kind s source [x, n] = refuse s .wrongMode [x] := by
  simp only [restoreSection, if_pos h]
  rfl

theorem restore_badIndex (hm : s.tables.mode = .service) (hx : s.configuredSection x = none) :
    restoreSection kind s source [x, n] = refuse s .badIndex [x] := by
  have hx' : s.configuredSection (paramByte [x, n] 0) = none := hx
  simp only [restoreSection, hm, hx', ne_eq, not_true_eq_false, if_false]
  rfl

variable (hm : s.tables.mode = .service) (hx : s.configuredSection x = some i)
  (hsource : ¬(kind = .direct ∧ s.isMaintenance source = false))
include hm hx hsource

theorem restore_forbidden
    (hp : kind = .direct ∧ (s.sectionEntry i).map SectionEntry.permission ≠ some .sweepOrDirect) :
    restoreSection kind s source [x, n] = refuse s .notPermitted ([x] ++ s.sectionBytes i) := by
  have hx' : s.configuredSection (paramByte [x, n] 0) = some i := hx
  simp only [restoreSection, hm, hx', ne_eq, not_true_eq_false, if_false, if_neg hsource]
  exact if_pos hp

variable (hp : ¬(kind = .direct ∧ (s.sectionEntry i).map SectionEntry.permission ≠ some .sweepOrDirect))
include hp

theorem restore_wrongState (hst : (s.sect i).state ≠ .disturbed) :
    restoreSection kind s source [x, n] = refuse s .wrongState ([x] ++ s.sectionBytes i) := by
  have hx' : s.configuredSection (paramByte [x, n] 0) = some i := hx
  simp only [restoreSection, hm, hx', ne_eq, not_true_eq_false, if_false, if_neg hsource]
  exact (if_neg hp).trans (if_pos hst)

variable (hst : (s.sect i).state = .disturbed)
include hst

theorem restore_stale (hn : n ≠ (s.sect i).serial) :
    restoreSection kind s source [x, n] = refuse s .stale ([x] ++ s.sectionBytes i) := by
  have hx' : s.configuredSection (paramByte [x, n] 0) = some i := hx
  simp only [restoreSection, hm, hx', ne_eq, not_true_eq_false, if_false, if_neg hsource]
  exact (if_neg hp).trans ((if_neg (not_not.2 hst)).trans (if_pos hn))

variable (hn : n = (s.sect i).serial)
include hn

theorem restore_notReady {p : PointIndex} (hf : s.firstNotReady kind i = some p) :
    restoreSection kind s source [x, n] = refuse s .notReady ([x] ++ s.sectionBytes i ++ [byte p.val]) := by
  have hx' : s.configuredSection (paramByte [x, n] 0) = some i := hx
  simp only [restoreSection, hm, hx', hf, ne_eq, not_true_eq_false, if_false, if_neg hsource]
  exact (if_neg hp).trans ((if_neg (not_not.2 hst)).trans (if_neg (not_not.2 hn)))

theorem restore_done (hf : s.firstNotReady kind i = none) :
    restoreSection kind s source [x, n] =
      done (s.commitSect i (s.restored kind i)) ([x] ++ (s.commitSect i (s.restored kind i)).sectionBytes i) := by
  have hx' : s.configuredSection (paramByte [x, n] 0) = some i := hx
  simp only [restoreSection, hm, hx', hf, ne_eq, not_true_eq_false, if_false, if_neg hsource]
  exact (if_neg hp).trans ((if_neg (not_not.2 hst)).trans (if_neg (not_not.2 hn)))

end

/-! ### The boundary points -/

section
variable {direct : Bool} {s : State} {i : SectionIndex} {e : SectionEntry}

/-- R80: a boundary point that may hold up no restoration. -/
theorem notReadyAt_eq_false {b : Boundary} :
    s.notReadyAt (restorationKind direct) b = false ↔
      (s.point b.point).status = .healthy ∧ (direct = true → (s.point b.point).phase = .idle) := by
  cases direct <;> simp [restorationKind, State.notReadyAt]

theorem firstNotReady_eq_none (h : ∀ b ∈ s.boundaries i, s.notReadyAt (restorationKind direct) b = false) :
    s.firstNotReady (restorationKind direct) i = none := by
  simpa [State.firstNotReady] using h

theorem firstNotReady_eq_some {earlier later : List Boundary} {b : Boundary} (hb : s.boundaries i = earlier ++ b :: later)
    (hearlier : ∀ c ∈ earlier, s.notReadyAt (restorationKind direct) c = false)
    (hno : s.notReadyAt (restorationKind direct) b = true) :
    s.firstNotReady (restorationKind direct) i = some b.point := by
  have hnone : earlier.find? (s.notReadyAt (restorationKind direct)) = none := by simpa using hearlier
  rw [State.firstNotReady, hb, List.find?_append, hnone, Option.none_or, List.find?_cons_of_pos hno, Option.map_some]

theorem boundaries_of_entry (he : s.sectionEntry i = some e) : s.boundaries i = e.boundaries := by
  simp [State.boundaries, he]

/-- The record a restoration leaves (R66, R81). -/
theorem restored_eq (he : s.sectionEntry i = some e) :
    s.restored (restorationKind direct) i =
      { state := if direct then .settling else .sweepWait
        count := 0
        serial := (s.sect i).serial + 1
        cause := .none
        settle := if direct then some { start := s.now, length := e.settleTime * 100 } else (s.sect i).settle } := by
  cases direct with
  | true =>
    simp [restorationKind, State.restored, SectionRecord.enterSettling, SectionRecord.enter, settleTimer_eq,
      State.freshSettle, he]
  | false => simp [restorationKind, State.restored, SectionRecord.enter]

end

/-! ### The requests -/

section
variable {direct : Bool} {source tag x n : Byte} {t : Telegram} {s : State}

theorem Takes.restores (h : Takes source [if direct then 0x12 else 0x05, tag, x, n] t s) (ha : s.requests.activation = none) :
    Machine.exec .completesReception s =
      .next
        (arbitrate
          (answered source (if direct then 0x12 else 0x05) tag
            (restoreSection (restorationKind direct) (s.handed t) source [x, n]))) := by
  cases direct with
  | true => exact h.executes (c := .restoreDirect) (ps := [x, n]) rfl (.inl ha)
  | false => exact h.executes (c := .restoreSweep) (ps := [x, n]) rfl (.inl ha)

/-- Check 3 has been passed with authority (R77, log 28). -/
theorem Takes.restores_from_maintenance (h : Takes source [if direct then 0x12 else 0x05, tag, x, n] t s) :
    ¬(restorationKind direct = .direct ∧ (s.handed t).isMaintenance source = false) := by
  rintro ⟨hk, hno⟩
  cases direct with
  | false => cases hk
  | true =>
    have hauthorised : (s.isMaintenance source || (s.isInterlocking source && false)) = true := h.authorised
    have hno' : s.isMaintenance source = false := hno
    simp [hno'] at hauthorised

end

/-- Settles O44: by the checks of Table 4-2 in order. -/
theorem restorationJudged : Obligations.RestorationJudged := by
  intro direct source tag x n t s h ha
  have hexec := h.restores ha
  have hsource := h.restores_from_maintenance
  refine ⟨fun hm => ?_, fun hm => ⟨fun hno => ?_, fun i e hx he => ?_⟩⟩
  · rw [hexec, restore_wrongMode (s := s.handed t) hm]
    rfl
  · rw [hexec, restore_badIndex (s := s.handed t) hm (configuredSection_eq_none (s := s.handed t) hno)]
    rfl
  have he' : (s.handed t).sectionEntry i = some e := he
  have hb : (s.handed t).boundaries i = e.boundaries := boundaries_of_entry he'
  have hx' : (s.handed t).configuredSection x = some i :=
    configuredSection_eq_some hx (sectionConfigured_iff.2 (by simp [he']))
  have hpermitted : (restorationKind direct = .direct
        ∧ ((s.handed t).sectionEntry i).map SectionEntry.permission ≠ some .sweepOrDirect)
      ↔ ¬(direct = true → e.permission = .sweepOrDirect) := by
    rw [he']
    cases direct <;> simp [restorationKind]
  refine ⟨fun hno => ?_, fun hp hst => ?_, fun hp hst hn => ?_, fun hp hst hn => ⟨fun earlier b later hsplit hready hno => ?_,
    fun hready => ?_⟩⟩
  · rw [hexec, restore_forbidden (s := s.handed t) hm hx' hsource (hpermitted.2 hno)]
    rfl
  · rw [hexec, restore_wrongState (s := s.handed t) hm hx' hsource (mt hpermitted.1 (not_not.2 hp)) hst]
    rfl
  · rw [hexec, restore_stale (s := s.handed t) hm hx' hsource (mt hpermitted.1 (not_not.2 hp)) hst hn]
    rfl
  · have hfirst : (s.handed t).firstNotReady (restorationKind direct) i = some b.point :=
      firstNotReady_eq_some (hb.trans hsplit) (fun c hc => notReadyAt_eq_false.2 (hready c hc))
        (by rw [← Bool.not_eq_false, notReadyAt_eq_false]; exact hno)
    rw [hexec, restore_notReady (s := s.handed t) hm hx' hsource (mt hpermitted.1 (not_not.2 hp)) hst hn hfirst]
    rfl
  · have hfirst : (s.handed t).firstNotReady (restorationKind direct) i = none :=
      firstNotReady_eq_none fun b hmem => notReadyAt_eq_false.2 (hready b (hb ▸ hmem))
    rw [restore_done (s := s.handed t) hm hx' hsource (mt hpermitted.1 (not_not.2 hp)) hst hn hfirst] at hexec
    have hrecord := restored_eq (direct := direct) he'
    refine ⟨(s.handed t).commitSect i ((s.handed t).restored (restorationKind direct) i), hexec.trans ?_,
      commitSect_frame _ _ _, by simp, ?_, fun j => ?_⟩
    · have hbytes : ((s.handed t).commitSect i ((s.handed t).restored (restorationKind direct) i)).sectionBytes i =
          [if direct then 5 else 2, (s.sect i).serial + 1, 0] := by
        rw [State.sectionBytes, commitSect_sect, if_pos rfl, hrecord]
        cases direct <;> rfl
      rw [answered_eq, hbytes]
      rfl
    · have htold : Told [i] (s.handed t) ((s.handed t).commitSect i ((s.handed t).restored (restorationKind direct) i)) := by
        refine commitSect_told_state ?_
        have hst' : ((s.handed t).sect i).state = .disturbed := hst
        rw [hrecord, hst']
        cases direct <;> simp
      exact htold.congr (by simp) (by simp) (by simp) (by simp)
    · rw [commitSect_sect, hrecord]
      rfl

end Sys2Proof.Machine
end

section
/-! PROOFS. The load transaction (8.6, 10.3): LOAD_OPEN, LOAD_ENTRY and LOAD_CLOSE, the fields of an entry, and the idle timer. -/

namespace Sys2Proof.Machine

/-! ## The idle timer (O51) -/

/-- Settles O51. -/
theorem loadIdleTimeoutAborts : Obligations.LoadIdleTimeoutAborts := by
  refine fun s hp => ⟨fun hl => powered_onlyIf_not hp (by simp [State.loadIdleDue, hl]), fun l hl => ⟨fun hlate => ?_,
    fun hyoung => powered_onlyIf_not hp ?_⟩⟩
  · exact powered_onlyIf hp (loadIdleDue_iff.2 ⟨l, hl, hlate⟩)
  · rw [← Bool.not_eq_true, loadIdleDue_iff]
    rintro ⟨l', hl', hlate⟩
    rw [hl] at hl'
    cases hl'
    omega

/-! ## LOAD_OPEN and LOAD_CLOSE (O46) -/

section
variable {s : State} {x n : Byte} {l : Load}

/-- R172: the tables a load may be opened for, and their counts. -/
theorem loadOf_valid (h : x = 1 ∧ 1 ≤ n.toNat ∧ n.toNat ≤ 48 ∨ x = 2 ∧ 1 ≤ n.toNat ∧ n.toNat ≤ 32 ∨ x = 3 ∧ n = 1) :
    loadOf x n = some (if x = 1 then .points [] else if x = 2 then .sections [] else .parameters []) := by
  rcases h with ⟨rfl, hn⟩ | ⟨rfl, hn⟩ | ⟨rfl, rfl⟩
  · exact if_pos ((within_iff _ _ _).2 hn)
  · exact if_pos ((within_iff _ _ _).2 hn)
  · rfl

theorem loadOf_invalid
    (h : ¬(x = 1 ∧ 1 ≤ n.toNat ∧ n.toNat ≤ 48 ∨ x = 2 ∧ 1 ≤ n.toNat ∧ n.toNat ≤ 32 ∨ x = 3 ∧ n = 1)) :
    loadOf x n = none := by
  unfold loadOf
  split
  · rename_i hx
    refine if_neg fun hn => h (.inl ⟨BitVec.eq_of_toNat_eq hx, (within_iff _ _ _).1 hn⟩)
  · rename_i hx
    refine if_neg fun hn => h (.inr (.inl ⟨BitVec.eq_of_toNat_eq hx, (within_iff _ _ _).1 hn⟩))
  · rename_i hx
    refine if_neg fun hn => h (.inr (.inr ⟨BitVec.eq_of_toNat_eq hx, BitVec.eq_of_toNat_eq ?_⟩))
    exact Nat.le_antisymm ((within_iff _ _ _).1 hn).2 ((within_iff _ _ _).1 hn).1
  · rfl

theorem loadOpen_wrongMode (h : s.tables.mode ≠ .config) : loadOpen s [x, n] = refuse s .wrongMode [x, 255] := by
  simp only [loadOpen, if_pos h]
  rfl

variable (hm : s.tables.mode = .config)
include hm

theorem loadOpen_busy (hl : s.tables.load = some l) :
    loadOpen s [x, n] = refuse s .loadBusy [x, byte l.staged.size] := by
  simp only [loadOpen, hm, hl, ne_eq, not_true_eq_false, if_false]
  rfl

theorem loadOpen_badField (hl : s.tables.load = none) (hx : loadOf x n = none) :
    loadOpen s [x, n] = refuse s .badField [x, 255] := by
  have hx' : loadOf (paramByte [x, n] 0) (paramByte [x, n] 1) = none := hx
  simp only [loadOpen, hm, hl, hx', ne_eq, not_true_eq_false, if_false]
  rfl

theorem loadOpen_done {staged : Staged} (hl : s.tables.load = none) (hx : loadOf x n = some staged) :
    loadOpen s [x, n] =
      done (s.setLoad (some { staged := staged, count := n.toNat, idle := { start := s.now, length := 5000 } })) [x, 0] := by
  have hx' : loadOf (paramByte [x, n] 0) (paramByte [x, n] 1) = some staged := hx
  simp only [loadOpen, hm, hl, hx', ne_eq, not_true_eq_false, if_false]
  rfl

end

section
variable {s : State} {l : Load}

theorem loadClose_none (hl : s.tables.load = none) : loadClose s = refuse s .noLoad [0, 0, 0] := by
  simp [loadClose, hl]

theorem loadClose_short (hl : s.tables.load = some l) (h : l.staged.size < l.count) :
    loadClose s = refuse s .short [l.staged.code, byte l.staged.size, byte l.count] := by
  simp [loadClose, hl, h]

theorem loadClose_done (hl : s.tables.load = some l) (h : l.count ≤ l.staged.size) :
    loadClose s = done (closeLoad l.staged s) [l.staged.code, byte l.staged.size, byte l.count] := by
  simp [loadClose, hl, Nat.not_lt.2 h]

end

/-- Settles O46. -/
theorem loadOpenedAndClosed : Obligations.LoadOpenedAndClosed := by
  intro source tag x n t s ha
  refine ⟨fun h => ?_, fun h => ?_⟩
  · have hexec := h.executes (c := .loadOpen) (ps := [x, n]) rfl (.inl ha)
    rw [executeRequest] at hexec
    refine ⟨fun hm => ?_, fun hm l hl => ?_, fun hm hl hno => ?_, fun hm hl hvalid => ?_⟩
    · rw [hexec, loadOpen_wrongMode (s := s.handed t) hm]
      rfl
    · rw [hexec, loadOpen_busy (s := s.handed t) hm hl]
      rfl
    · rw [hexec, loadOpen_badField (s := s.handed t) hm hl (loadOf_invalid hno)]
      rfl
    · rw [hexec, loadOpen_done (s := s.handed t) hm hl (loadOf_valid hvalid)]
      rfl
  · have hexec := h.executes (c := .loadClose) (ps := []) rfl (.inl ha)
    rw [executeRequest] at hexec
    refine ⟨fun hl => ?_, fun l hl hshort => ?_, fun l hl hfull => ?_⟩
    · rw [hexec, loadClose_none (s := s.handed t) hl]
      rfl
    · rw [hexec, loadClose_short (s := s.handed t) hl hshort]
      rfl
    · rw [hexec, loadClose_done (s := s.handed t) hl hfull]
      rfl

/-! ## LOAD_ENTRY (O48) -/

section
variable {s : State} {l : Load} {x index : Byte} {fields : List Byte}

theorem setLoad_same {o : Option Load} (h : s.tables.load = o) : s.setLoad o = s := by
  subst h
  rfl

theorem loadEntry_none (hl : s.tables.load = none) :
    loadEntry s (x :: index :: fields) = refuse s .noLoad [index, 255] := by
  simp only [loadEntry, hl]
  rfl

variable (hl : s.tables.load = some l)
include hl

theorem loadEntry_countDone (h : l.count ≤ l.staged.size) :
    loadEntry s (x :: index :: fields) =
      refuse (s.setLoad (some { l with idle := { start := s.now, length := 5000 } })) .countDone
        [index, byte l.staged.size] := by
  simp only [loadEntry, hl, if_pos h]
  rfl

variable (hcount : l.staged.size < l.count)
include hcount

theorem loadEntry_outOfOrder (h : index.toNat ≠ l.staged.size) :
    loadEntry s (x :: index :: fields) = refuse (s.setLoad none) .outOfOrder [index, 255] := by
  have h' : (paramByte (x :: index :: fields) 1).toNat ≠ l.staged.size := h
  simp only [loadEntry, hl, if_neg (Nat.not_le.2 hcount), if_pos h']
  rfl

variable (hindex : index.toNat = l.staged.size)
include hindex

theorem loadEntry_badField {n : Nat} (h : firstBadField (entryFieldChecks l.staged (x :: index :: fields)) = some n) :
    loadEntry s (x :: index :: fields) =
      refuse (s.setLoad (some { l with idle := { start := s.now, length := 5000 } })) .badField
        [index, byte l.staged.size, byte n] := by
  have hindex' : ¬(paramByte (x :: index :: fields) 1).toNat ≠ l.staged.size := not_not.2 hindex
  simp only [loadEntry, hl, if_neg (Nat.not_le.2 hcount), if_neg hindex', h]
  rfl

theorem loadEntry_done (h : firstBadField (entryFieldChecks l.staged (x :: index :: fields)) = none) :
    loadEntry s (x :: index :: fields) =
      done
        (s.setLoad
          (some
            { l with
              staged := stageEntry l.staged (x :: index :: fields)
              idle := { start := s.now, length := 5000 } }))
        [index, byte (l.staged.size + 1)] := by
  have hindex' : ¬(paramByte (x :: index :: fields) 1).toNat ≠ l.staged.size := not_not.2 hindex
  simp only [loadEntry, hl, if_neg (Nat.not_le.2 hcount), if_neg hindex', h, stageEntry_size]
  rfl

end

/-- Settles O48: by the order of R173. -/
theorem loadEntryStaged : Obligations.LoadEntryStaged := by
  intro source tag x index fields t s h hlen ha
  have hps : RequestCode.loadEntry.paramBytes (x :: index :: fields) = some (x :: index :: fields).length :=
    (paramBytes_iff (tag := tag)).2 (hlen.trans (by simp; omega))
  have hexec := h.executes (c := .loadEntry) (ps := x :: index :: fields) hps (.inl ha)
  rw [executeRequest] at hexec
  refine ⟨fun hl => ?_, fun l hl => ⟨fun hdone => ?_, fun hlt hno => ?_, fun hlt hindex => ⟨fun n hbad => ?_, fun hgood => ?_⟩⟩⟩
  · have hsame : (s.handed t).setLoad none = s.handed t := setLoad_same hl
    rw [hexec, loadEntry_none (s := s.handed t) hl]
    show _ = Host.Outcome.next (arbitrate (((s.handed t).setLoad none).plusAnswer _))
    rw [hsame]
    rfl
  · rw [hexec, loadEntry_countDone (s := s.handed t) hl hdone]
    rfl
  · rw [hexec, loadEntry_outOfOrder (s := s.handed t) hl hlt hno]
    rfl
  · rw [hexec, loadEntry_badField (s := s.handed t) hl hlt hindex hbad]
    rfl
  · rw [hexec, loadEntry_done (s := s.handed t) hl hlt hindex hgood]
    rfl

/-! ## The fields of an entry (O49) -/

section
variable {ps : List Byte} {x : Byte}

/-- R151: an entry of another table. -/
theorem firstBadField_foreign {staged : Staged} {rest : List Byte} (h : x ≠ staged.code) :
    firstBadField (entryFieldChecks staged (x :: rest)) = some 1 := by
  have hcode : (paramByte (x :: rest) 0 == staged.code) = false := by simpa [paramByte] using h
  simp [firstBadField, entryFieldChecks, hcode]

/-! ### POINTS -/

/-- The checks of a POINTS entry decide its fields. -/
theorem pointChecks_decide {es : List PointEntry} :
    ∀ c ∈ entryFieldChecks (.points es) ps, c.2 = true ↔ pointField (paramByte ps 0) (pointEntryOf ps) c.1 := by
  simp only [entryFieldChecks, pointFieldChecks, List.forall_mem_cons, within_iff, beq_iff_eq, Staged.code]
  exact ⟨Iff.rfl, Iff.rfl, Iff.rfl, Iff.rfl, Iff.rfl, Iff.rfl, Iff.rfl, by simp⟩

theorem pointChecks_rise {es : List PointEntry} :
    (entryFieldChecks (.points es) ps).Pairwise fun a b => a.1 < b.1 := by
  simp [entryFieldChecks, pointFieldChecks]

theorem pointField_of_unchecked {es : List PointEntry} {e : PointEntry} (n : Nat)
    (h : ∀ c ∈ entryFieldChecks (.points es) ps, c.1 ≠ n) : pointField x e n := by
  simp only [entryFieldChecks, pointFieldChecks, List.forall_mem_cons] at h
  obtain ⟨h1, h3, h4, h5, h6, h7, h8, -⟩ := h
  unfold pointField
  split
  case h_8 => trivial
  all_goals contradiction

/-! ### PARAMETERS -/

theorem paramChecks_decide {es : List ParamRecord} :
    ∀ c ∈ entryFieldChecks (.parameters es) ps, c.2 = true ↔ paramField (paramByte ps 0) (paramRecordOf ps) c.1 := by
  have hbyte : ∀ b : Byte, b.toNat ≤ 255 := fun b => Nat.le_of_lt_succ b.isLt
  simp only [entryFieldChecks, paramFieldChecks, List.forall_mem_cons, within_iff, beq_iff_eq, Staged.code, Nat.zero_le,
    true_and, hbyte, and_true]
  exact ⟨Iff.rfl, Iff.rfl, Iff.rfl, Iff.rfl, Iff.rfl, Iff.rfl, Iff.rfl, Iff.rfl, Iff.rfl, Iff.rfl, Iff.rfl, Iff.rfl, Iff.rfl,
    by simp⟩

theorem paramChecks_rise {es : List ParamRecord} :
    (entryFieldChecks (.parameters es) ps).Pairwise fun a b => a.1 < b.1 := by
  simp [entryFieldChecks, paramFieldChecks]

theorem paramField_of_unchecked {es : List ParamRecord} {e : ParamRecord} (n : Nat)
    (h : ∀ c ∈ entryFieldChecks (.parameters es) ps, c.1 ≠ n) : paramField x e n := by
  simp only [entryFieldChecks, paramFieldChecks, List.forall_mem_cons] at h
  obtain ⟨h1, h3, h4, h5, h6, h7, h8, h9, h10, h11, h12, h13, h14, -⟩ := h
  unfold paramField
  split
  case h_14 => trivial
  all_goals contradiction

end

/-! ### SECTIONS -/

/-- Boundary slot `j` as carried: point byte and side byte (Table 8-14). -/
def slotBytes (ps : List Byte) (j : Nat) : Byte × Byte := (paramByte ps (3 + 2 * j), paramByte ps (4 + 2 * j))

/-- Table 8-6: the side codes. -/
def Side.code (x : Side) : Byte :=
  match x with
  | .a => 1
  | .b => 2

theorem sideOfCode_iff {b : Byte} {x : Side} : Side.ofCode b = some x ↔ b = x.code := by
  constructor
  · intro h
    unfold Side.ofCode at h
    split at h <;> cases h
    all_goals exact BitVec.eq_of_toNat_eq ‹_›
  · rintro rfl
    cases x <;> rfl

section
variable {ps : List Byte} {j : Nat} {k st pm x : Byte}

theorem boundarySlot_eq_some {b : Boundary} :
    boundarySlot ps j = some b ↔ slotBytes ps j = (byte b.point.val, b.inside.code) := by
  have hpair : boundarySlot ps j = some b ↔
      pointOfByte (slotBytes ps j).1 = some b.point ∧ Side.ofCode (slotBytes ps j).2 = some b.inside := by
    unfold boundarySlot slotBytes
    cases pointOfByte (paramByte ps (3 + 2 * j)) <;> cases Side.ofCode (paramByte ps (4 + 2 * j)) <;>
      cases b <;> simp
  rw [hpair, pointOfByte_iff, sideOfCode_iff, Prod.ext_iff]

theorem boundarySlot_isSome :
    (boundarySlot ps j).isSome = true ↔
      (slotBytes ps j).1.toNat ≤ 47 ∧ ((slotBytes ps j).2 = 1 ∨ (slotBytes ps j).2 = 2) := by
  simp only [Option.isSome_iff_exists, boundarySlot_eq_some]
  constructor
  · rintro ⟨⟨p, side⟩, h⟩
    rw [h, toNat_byte (by omega)]
    exact ⟨Nat.le_of_lt_succ p.isLt, by cases side <;> simp [Side.code]⟩
  · rintro ⟨hp, hside⟩
    refine ⟨{ point := ⟨(slotBytes ps j).1.toNat, by omega⟩, inside := if (slotBytes ps j).2 = 1 then .a else .b }, ?_⟩
    rcases hside with h | h <;> simp [Prod.ext_iff, byte_toNat, h, Side.code]

/-- The slots within the count, one by one. -/
theorem forall_mem_take_slots {P : Byte × Byte → Prop} {n : Nat} (hn : n ≤ 6) :
    (∀ b ∈ ((List.range 6).map (slotBytes ps)).take n, P b) ↔ ∀ j < n, P (slotBytes ps j) := by
  rw [← List.map_take, List.take_range, Nat.min_eq_left hn]
  simp

/-- The slots as Table 8-14 lays them out. -/
def slotsOf (ps : List Byte) : List (Byte × Byte) := (List.range 6).map (slotBytes ps)

theorem sectionField_slot (hj : j < 6) :
    sectionField x k (slotsOf ps) st pm (4 + j) ↔
      k.toNat ≤ j ∨ (slotBytes ps j).1.toNat ≤ 47 ∧ ((slotBytes ps j).2 = 1 ∨ (slotBytes ps j).2 = 2) := by
  have hfield : sectionField x k (slotsOf ps) st pm (4 + j) =
      (4 ≤ 4 + j → ∀ b, ((slotsOf ps).take k.toNat)[4 + j - 4]? = some b → b.1.toNat ≤ 47 ∧ (b.2 = 1 ∨ b.2 = 2)) := by
    interval_cases j <;> rfl
  have hslot : (slotsOf ps)[j]? = some (slotBytes ps j) := by simp [slotsOf, hj]
  rw [hfield, Nat.add_sub_cancel_left, List.getElem?_take]
  by_cases hk : k.toNat ≤ j
  · simp [hk, Nat.not_lt.2 hk]
  · simp [hk, Nat.not_le.1 hk, hslot]

/-- Table 8-6: the permission codes. -/
theorem permission_iff : 1 ≤ pm.toNat ∧ pm.toNat ≤ 2 ↔ pm = 1 ∨ pm = 2 := by
  constructor
  · intro h
    rcases (by omega : pm.toNat = 1 ∨ pm.toNat = 2) with h | h
    · exact .inl (BitVec.eq_of_toNat_eq h)
    · exact .inr (BitVec.eq_of_toNat_eq h)
  · rintro (rfl | rfl) <;> decide

theorem sectionChecks_decide {es : List SectionEntry} :
    ∀ c ∈ entryFieldChecks (.sections es) ps,
      c.2 = true ↔
        sectionField (paramByte ps 0) (paramByte ps 2) (slotsOf ps) (paramByte ps 15) (paramByte ps 16) c.1 := by
  have hbyte : ∀ b : Byte, b.toNat ≤ 255 := fun b => Nat.le_of_lt_succ b.isLt
  simp only [entryFieldChecks, sectionFieldChecks, List.forall_mem_cons, List.forall_mem_append, List.forall_mem_map,
    List.mem_range, within_iff, beq_iff_eq, Bool.or_eq_true, decide_eq_true_eq, boundarySlot_isSome, permission_iff, hbyte,
    and_true, Staged.code]
  exact ⟨Iff.rfl, ⟨⟨Iff.rfl, by simp⟩, fun j hj => (sectionField_slot hj).symm⟩, Iff.rfl, Iff.rfl, by simp⟩

theorem sectionChecks_rise {es : List SectionEntry} :
    (entryFieldChecks (.sections es) ps).Pairwise fun a b => a.1 < b.1 := by
  simp [entryFieldChecks, sectionFieldChecks, List.range_succ]

theorem sectionField_of_unchecked {es : List SectionEntry} (n : Nat)
    (h : ∀ c ∈ entryFieldChecks (.sections es) ps, c.1 ≠ n) : sectionField x k (slotsOf ps) st pm n := by
  simp only [entryFieldChecks, sectionFieldChecks, List.forall_mem_cons, List.forall_mem_append, List.forall_mem_map,
    List.mem_range] at h
  obtain ⟨h1, ⟨⟨h3, -⟩, hslot⟩, h10, h11, -⟩ := h
  unfold sectionField
  split
  case h_2 => trivial
  case h_6 =>
    intro h4 b hb
    have hlt : n - 4 < 6 := by
      have := (List.getElem?_eq_some_iff.1 hb).1
      simp [slotsOf] at this
      omega
    exact absurd (by omega) (hslot (n - 4) hlt)
  all_goals contradiction

/-- The checks of a SECTIONS entry pass exactly when its fields are in range (Table 3-1). -/
theorem sectionChecks_pass {es : List SectionEntry} :
    (∀ c ∈ entryFieldChecks (.sections es) ps, c.2 = true) ↔
      paramByte ps 0 = 2 ∧ 1 ≤ (paramByte ps 2).toNat ∧ (paramByte ps 2).toNat ≤ 6
        ∧ (∀ b ∈ (slotsOf ps).take (paramByte ps 2).toNat, b.1.toNat ≤ 47 ∧ (b.2 = 1 ∨ b.2 = 2))
        ∧ 1 ≤ (paramByte ps 15).toNat ∧ (paramByte ps 16 = 1 ∨ paramByte ps 16 = 2) := by
  have hbyte : ∀ b : Byte, b.toNat ≤ 255 := fun b => Nat.le_of_lt_succ b.isLt
  simp only [entryFieldChecks, sectionFieldChecks, List.forall_mem_cons, List.forall_mem_append, List.forall_mem_map,
    List.mem_range, within_iff, beq_iff_eq, Bool.or_eq_true, decide_eq_true_eq, boundarySlot_isSome, permission_iff, hbyte,
    and_true, Staged.code, List.not_mem_nil, false_implies, forall_const, and_assoc]
  refine and_congr_right fun _ => and_congr_right fun _ => and_congr_right fun hk => and_congr_left fun _ => ?_
  rw [slotsOf, forall_mem_take_slots hk]
  exact ⟨fun h j hj => (h j (by omega)).resolve_left (by omega), fun h j _ => (Nat.lt_or_ge j _).symm.imp_right (h j)⟩

theorem map_filterMap_of_eq_some {α β γ : Type} {f : α → Option β} {g : β → γ} {h : α → γ} (l : List α)
    (hf : ∀ a ∈ l, ∃ b, f a = some b ∧ g b = h a) : (l.filterMap f).map g = l.map h := by
  induction l with
  | nil => rfl
  | cons a l ih =>
    obtain ⟨b, hb, hg⟩ := hf a (by simp)
    rw [List.filterMap_cons_some hb, List.map_cons, List.map_cons, hg, ih fun a' ha' => hf a' (by simp [ha'])]

/-- Table 8-14: a SECTIONS entry that passes its checks is held as carried. -/
theorem sectionEntryOf_boundaries {es : List SectionEntry}
    (h : ∀ c ∈ entryFieldChecks (.sections es) ps, c.2 = true) :
    (sectionEntryOf ps).boundaries.map (fun b => (byte b.point.val, if b.inside = .a then 1 else 2)) =
      (slotsOf ps).take (paramByte ps 2).toNat := by
  obtain ⟨-, -, hk, hslots, -⟩ := sectionChecks_pass.1 h
  rw [slotsOf, forall_mem_take_slots hk] at hslots
  rw [slotsOf, ← List.map_take, List.take_range, Nat.min_eq_left hk]
  refine map_filterMap_of_eq_some _ fun j hj => ?_
  obtain ⟨b, hb⟩ := Option.isSome_iff_exists.1 (boundarySlot_isSome.2 (hslots j (List.mem_range.1 hj)))
  refine ⟨b, hb, ?_⟩
  rw [boundarySlot_eq_some.1 hb]
  cases b.inside <;> rfl

end

/-- Settles O49: the checks decide the fields, in rising order. -/
theorem entryFieldsChecked : Obligations.EntryFieldsChecked := by
  refine ⟨fun staged x rest hx => firstBadField_foreign fun hcode => hx ?_, ?_, ?_, ?_⟩
  · rw [hcode]
    rfl
  · intro es x index ha s1 s0 c1 c0 w rc sl
    refine ⟨?_, firstBadField_some _ _ pointChecks_rise pointChecks_decide pointField_of_unchecked, rfl⟩
    rw [firstBadField_none, entryFieldChecks, List.forall_mem_cons, beq_iff_eq, pointFieldChecks_iff]
    rfl
  · intro es x index k p0 i0 p1 i1 p2 i2 p3 i3 p4 i4 p5 i5 st pm
    refine ⟨(firstBadField_none _).trans sectionChecks_pass,
      firstBadField_some _ _ sectionChecks_rise sectionChecks_decide sectionField_of_unchecked, fun h => ⟨_, rfl, ?_, rfl, rfl⟩⟩
    exact sectionEntryOf_boundaries ((firstBadField_none _).1 h)
  · intro es x index a b c d tr ho cy si co ro lo hb
    refine ⟨?_, firstBadField_some _ _ paramChecks_rise paramChecks_decide paramField_of_unchecked, rfl⟩
    rw [firstBadField_none, entryFieldChecks, List.forall_mem_cons, beq_iff_eq, paramFieldChecks_iff]
    rfl

end Sys2Proof.Machine
end

section
/-! PROOFS. The Table Store put to use (9.6, 10.3 to 10.5): ENTER_CONFIG, what a LOAD_CLOSE changes, ACTIVATE, RESTART and the
end of an activation. -/

namespace Sys2Proof.Machine

/-! ## Points reset -/

/-- R2: a state whose points are those of a reset under the same table. -/
theorem pointsReset_of {status : PointStatus} {s t u : State} (hp : t.points = (resetPoints status u).points)
    (ht : u.tables.points = s.tables.points) : PointsReset status s t := by
  refine ⟨fun p => ?_, by rw [hp]; rfl, by rw [hp]; rfl, by rw [hp]; rfl⟩
  rw [point_congr (s := resetPoints status u) (by rw [hp]), resetPoints_point, pointConfigured_congr ht]

/-! ## ENTER_CONFIG (O45) -/

section
variable {s : State}

/-- R49, R70: an entry into DISTURBED is one of a configured section that counted. -/
theorem sectionsToConfig_latches (s : State) :
    (sectionsToConfig s).attention.latches =
      s.attention.latches ||| if s.someCounting then Latch.sectionDisturbed.mask else 0 := by
  unfold sectionsToConfig
  dsimp only
  split <;> simp

theorem someCounting_iff : s.someCounting = true ↔ ∃ i ∈ s.configuredSections, (s.sect i).state ≠ .disturbed := by
  simp [State.someCounting]

/-- R49: the record of a configured section after ENTER_CONFIG. -/
theorem toConfig_eq (r : SectionRecord) :
    r.toConfig =
      { state := .disturbed
        count := 0
        serial := if r.state = .disturbed then r.serial else r.serial + 1
        cause := .config
        settle := none } := by
  unfold SectionRecord.toConfig
  split
  · rename_i h
    simp [h]
  · simp only [SectionRecord.enterDisturbed, SectionRecord.enter]

/-- R70: SECTION_DISTURBED is set when a configured section has entered DISTURBED. -/
theorem entryLatch_enterConfig (s : State) :
    entryLatch s.configuredSections s (enterConfig s) = if s.someCounting then Latch.sectionDisturbed.mask else 0 := by
  have hany : (s.configuredSections.any fun i =>
      decide ((s.sect i).state ≠ .disturbed) && decide (((enterConfig s).sect i).state = .disturbed)) = s.someCounting := by
    rw [Bool.eq_iff_iff, someCounting_iff, List.any_eq_true]
    refine exists_congr fun i => and_congr_right fun hi => ?_
    rw [enterConfig_sect, if_pos (mem_configuredSections.1 hi), toConfig_eq]
    simp
  rw [entryLatch, hany]

/-- R116: every configured section queued. -/
theorem sectionsToConfig_queues (s : State) : Queues s.configuredSections s (sectionsToConfig s) := by
  have h : ∀ t : State, t.tables = s.tables → t.now = s.now → t.reports = s.reports →
      Queues s.configuredSections s (queueAllSections t) := fun t ht hn hr => by
    have hq := queueAllSections_queues t
    rw [configuredSections_of (s := s) (by rw [ht])] at hq
    exact hq.congr ⟨by rw [ht], by rw [ht]⟩ hn.symm hr.symm rfl
  unfold sectionsToConfig
  dsimp only
  split
  · exact h _ (by simp) (by simp) (by simp)
  · exact h _ rfl rfl rfl

/-- R176. -/
theorem enterConfig_frame (s : State) :
    let u := enterConfig s
    u =
      { s with
        points := u.points
        sections := u.sections
        peer := u.peer
        reports := u.reports
        tables := { s.tables with mode := .config, activated := false, startLimit := none }
        attention := { s.attention with latches := s.attention.latches ||| entryLatch s.configuredSections s u } } := by
  have hlatches :
      (enterConfig s).attention.latches = s.attention.latches ||| entryLatch s.configuredSections s (enterConfig s) := by
    have hcounting : s.inConfig.someCounting = s.someCounting := by
      simp only [State.someCounting, configuredSections_of (s := s) (t := s.inConfig) (by simp),
        sect_congr (s := s) (t := s.inConfig) (by simp)]
    rw [entryLatch_enterConfig, ← hcounting]
    simpa [enterConfig_eq] using sectionsToConfig_latches s.inConfig
  exact state_ext ⟨by simp, by simp, by simp, by simp, rfl, rfl, rfl, rfl, by simp, by simp [enterConfig_eq],
    attention_ext ⟨hlatches, by simp⟩, by simp, by simp⟩

theorem enterConfig_queues (s : State) : Queues s.configuredSections s (enterConfig s) := by
  have hq := sectionsToConfig_queues s.inConfig
  rw [configuredSections_of (s := s) (by simp)] at hq
  exact hq.congr (by simp) (by simp) (by simp) (by simp [enterConfig_eq])

theorem enterConfigRequest_config (hm : s.tables.mode = .config) : enterConfigRequest s = done s [] := by
  simp [enterConfigRequest, hm]

theorem enterConfigRequest_leaves (hm : s.tables.mode ≠ .config) : enterConfigRequest s = done (enterConfig s) [] := by
  simp [enterConfigRequest, hm]

end

/-- Settles O45. -/
theorem enterConfigStopsEvaluation : Obligations.EnterConfigStopsEvaluation := by
  intro source tag t s h ha
  have hexec := h.executes (c := .enterConfig) (ps := []) rfl (.inl ha)
  rw [executeRequest] at hexec
  refine ⟨fun hm => ?_, fun hm => ?_⟩
  · rw [hexec, enterConfigRequest_config (s := s.handed t) hm]
    rfl
  · rw [enterConfigRequest_leaves (s := s.handed t) hm] at hexec
    refine ⟨enterConfig (s.handed t), hexec, enterConfig_frame (s.handed t), pointsReset_of rfl (by simp),
      peerReset_spec rfl, (enterConfig_queues (s.handed t)).congr (by simp) (by simp) (by simp) rfl, by simp, fun i => ?_⟩
    rw [enterConfig_sect, toConfig_eq]
    rfl

/-! ## What a LOAD_CLOSE changes (O47) -/

section
variable {s : State} {r : ParamRecord}

/-- R117, R119, R120: reporting begins with a fresh cycle, and with a fresh hold timer where reports wait. -/
theorem startReporting_reports (hr : s.tables.params = some r) (hs : s.tables.sections ≠ []) :
    (startReporting s).reports =
      { queue := s.reports.queue
        cyclePointer := 0
        cycleTimer := some { start := s.now, length := r.cyclePeriod * 10 }
        hold := if s.reports.queue = [] then s.reports.hold else .running { start := s.now, length := r.reportHold } } := by
  have hactive : s.reportingActive = true := reportingActive_iff.2 ⟨by simp [hr], hs⟩
  have htimer : (restartCycle s).reports.cycleTimer = some { start := s.now, length := r.cyclePeriod * 10 } := by
    simp [restartCycle, hr, hactive, State.startTimer]
  unfold startReporting
  by_cases hq : s.reports.queue = []
  · simp only [restartCycle_keeps, hq, List.isEmpty_nil, if_true]
    exact reports_ext ⟨by simp [hq], rfl, htimer, by simp⟩
  · have hne : s.reports.queue.isEmpty = false := by simpa using hq
    simp only [restartCycle_keeps, hne, Bool.false_eq_true, if_false, if_neg hq]
    refine reports_ext ⟨by simp, by simp [restartCycle], by simpa using htimer, ?_⟩
    simp [State.startHold, hr, State.startTimer]

theorem maybeStartReporting_starts {before : State} (hr : s.tables.params = some r) (hs : s.tables.sections ≠ [])
    (hb : before.reportingActive = false) : maybeStartReporting before s = startReporting s := by
  have hactive : s.reportingActive = true := reportingActive_iff.2 ⟨by simp [hr], hs⟩
  simp [maybeStartReporting, hactive, hb]

theorem maybeStartReporting_waits {before : State} (h : s.reportingActive = true → before.reportingActive = true) :
    maybeStartReporting before s = s := by
  unfold maybeStartReporting
  rw [if_neg]
  simpa using h

end

/-- The state a LOAD_CLOSE of PARAMETERS leaves before reporting may begin. -/
def State.paramsClosed (s : State) (r : ParamRecord) : State :=
  { s with tables := { s.tables with params := some r, load := none } }

theorem closeLoad_parameters (r : ParamRecord) (s : State) :
    closeLoad (.parameters [r]) s = maybeStartReporting s (s.paramsClosed r) := rfl

/-- The state a LOAD_CLOSE of SECTIONS leaves before reporting may begin. -/
def State.sectionsClosed (s : State) (es : List SectionEntry) : State :=
  dropUnusedReports (setSectionsAtLoad { s with tables := { s.tables with sections := es, load := none } })

theorem closeLoad_sections (es : List SectionEntry) (s : State) :
    closeLoad (.sections es) s = maybeStartReporting s (s.sectionsClosed es) := rfl

section
variable {s : State} {es : List SectionEntry}

@[simp] theorem sectionsClosed_keeps (s : State) (es : List SectionEntry) :
    (s.sectionsClosed es).now = s.now
      ∧ (s.sectionsClosed es).tables = { s.tables with sections := es, load := none } := by
  simp [State.sectionsClosed]

/-- R114, R120: the queue keeps the sections still configured. -/
theorem sectionsClosed_reports :
    (s.sectionsClosed es).reports =
      { s.reports with
        queue := s.reports.queue.filter (s.sectionsClosed es).sectionConfigured
        hold :=
          if s.reports.queue.filter (s.sectionsClosed es).sectionConfigured = [] then .stopped else s.reports.hold } := by
  have hconfigured : (setSectionsAtLoad { s with tables := { s.tables with sections := es, load := none } }).sectionConfigured
      = (s.sectionsClosed es).sectionConfigured := funext fun i => sectionConfigured_congr (by simp) i
  simp only [← hconfigured, ← List.isEmpty_iff]
  rfl

/-- R117: reporting is active after the LOAD_CLOSE and was not before. -/
theorem sectionsClosed_starts (h : s.tables.params ≠ none ∧ es ≠ [] ∧ s.tables.sections = []) {r : ParamRecord}
    (hr : s.tables.params = some r) :
    closeLoad (.sections es) s = startReporting (s.sectionsClosed es) := by
  obtain ⟨-, hes, hs⟩ := h
  exact (closeLoad_sections es s).trans (maybeStartReporting_starts (r := r) (by simpa using hr) (by simpa using hes)
    (Bool.eq_false_iff.2 fun hactive => (reportingActive_iff.1 hactive).2 hs))

theorem sectionsClosed_waits (h : ¬(s.tables.params ≠ none ∧ es ≠ [] ∧ s.tables.sections = [])) :
    closeLoad (.sections es) s = s.sectionsClosed es := by
  refine (closeLoad_sections es s).trans (maybeStartReporting_waits fun hactive => reportingActive_iff.2 ?_)
  obtain ⟨hp, hes⟩ := reportingActive_iff.1 hactive
  simp only [sectionsClosed_keeps] at hp hes
  exact ⟨hp, fun hs => h ⟨hp, hes, hs⟩⟩

end

/-- Settles O47, table by table. -/
theorem loadCloseEffects : Obligations.LoadCloseEffects := by
  refine fun s => ⟨fun es => ⟨pointsReset_of rfl rfl, rfl⟩, fun es => ?_, fun r => ?_⟩
  · have hconfigured : (closeLoad (.sections es) s).sectionConfigured = (s.sectionsClosed es).sectionConfigured :=
      funext fun i => sectionConfigured_congr (by simp [closeLoad_sections_tables]) i
    have hqueue : (closeLoad (.sections es) s).reports.queue = (s.sectionsClosed es).reports.queue := by
      simp [closeLoad_sections]
    dsimp only
    rw [hconfigured]
    refine ⟨state_ext ⟨by simp, by simp, by simp, by simp, by simp [closeLoad], rfl, by simp, rfl, by simp,
      closeLoad_sections_tables es s, by simp, by simp, by simp⟩, by simp, closeLoad_sections_sect es s,
      hqueue.trans (by rw [sectionsClosed_reports]), fun hno => ?_, fun hstarts r hr => ?_⟩
    · rw [sectionsClosed_waits hno, sectionsClosed_reports]
    · rw [sectionsClosed_starts hstarts hr, startReporting_reports (r := r) (by simpa using hr) (by simpa using hstarts.2.1),
        sectionsClosed_reports]
      refine reports_ext ⟨rfl, rfl, by simp, ?_⟩
      dsimp only
      split <;> simp [sectionsClosed_keeps]
  · refine ⟨?_, fun hno => ?_, fun hp hs => ?_⟩
    · exact state_ext ⟨by simp, by simp, by simp, by simp, by simp [closeLoad], by simp [closeLoad], by simp, rfl, by simp,
        closeLoad_parameters_tables [r] s, by simp, by simp, by simp⟩
    · rw [closeLoad_parameters, maybeStartReporting_waits fun hactive => reportingActive_iff.2 ?_]
      · rfl
      obtain ⟨-, hs⟩ := reportingActive_iff.1 hactive
      exact ⟨hno.resolve_right hs, hs⟩
    · rw [closeLoad_parameters, maybeStartReporting_starts (s := s.paramsClosed r) rfl hs
        (Bool.eq_false_iff.2 fun hactive => (reportingActive_iff.1 hactive).1 hp),
        startReporting_reports (s := s.paramsClosed r) rfl hs]
      rfl

/-! ## ACTIVATE and RESTART (O50) -/

section
variable {s : State} {source code tag hi lo : Byte}

theorem activateRequest_wrongMode (hm : s.tables.mode ≠ .config) :
    activateRequest source code tag [hi, lo] s = s.plusAnswer (reply source code tag .wrongMode []) := if_pos hm

variable (hm : s.tables.mode = .config)
include hm

theorem activateRequest_busy (hl : s.tables.load ≠ none) :
    activateRequest source code tag [hi, lo] s = s.plusAnswer (reply source code tag .loadBusy []) :=
  (if_neg (not_not.2 hm)).trans (if_pos (Option.isSome_iff_ne_none.2 hl))

variable (hl : s.tables.load = none)
include hl

theorem activateRequest_badField (hv : BitVec.ofNat 16 (hi.toNat * 256 + lo.toNat) = 0) :
    activateRequest source code tag [hi, lo] s = s.plusAnswer (reply source code tag .badField []) :=
  (if_neg (not_not.2 hm)).trans ((if_neg (by simp [hl])).trans (if_pos hv))

/-- R177, R159: the activation in flight, and the place of its answer. -/
theorem activateRequest_begins (hv : BitVec.ofNat 16 (hi.toNat * 256 + lo.toNat) ≠ 0) :
    activateRequest source code tag [hi, lo] s =
      { s with
        requests :=
          { s.requests with
            answers := s.requests.answers ++ [.reserved]
            activation :=
              some
                { version := BitVec.ofNat 16 (hi.toNat * 256 + lo.toNat)
                  source := source
                  tag := tag
                  began := s.now } } } :=
  (if_neg (not_not.2 hm)).trans ((if_neg (by simp [hl])).trans (if_neg hv))

end

/-- Settles O50. -/
theorem activateAndRestartRequests : Obligations.ActivateAndRestartRequests := by
  intro source tag hi lo t s
  refine ⟨fun h ha => ?_, fun h => h.executes (c := .restart) (ps := []) rfl (.inr rfl)⟩
  have hexec := h.executes (c := .activate) (ps := [hi, lo]) rfl (.inl ha)
  rw [executeRequest] at hexec
  refine ⟨fun hm => ?_, fun hm hl => ?_, fun hm hl hv => ?_, fun hm hl hv => ?_⟩
  · rw [hexec, activateRequest_wrongMode (s := s.handed t) hm]
    rfl
  · rw [hexec, activateRequest_busy (s := s.handed t) hm hl]
    rfl
  · rw [hexec, activateRequest_badField (s := s.handed t) hm hl hv]
    rfl
  · rw [hexec, activateRequest_begins (s := s.handed t) hm hl hv]
    rfl

/-! ## The end of an activation (O53) -/

section
variable {s : State}

theorem exec_activationEnd {a : Activation} (hp : s.pwron = false) (ha : s.requests.activation = some a) :
    exec .activationEnd s = .next (arbitrate (endActivation a s)) := by
  simp only [exec, execActivationEnd, powered_of_off hp, activationEnded, ha]

theorem endActivation_invalid {a : Activation} {code index : Byte} (h : s.validate = some (code, index)) :
    endActivation a s = answerActivation a .invalid [code, index] s := by
  simp [endActivation, h]

theorem endActivation_done {a : Activation} (h : s.validate = none) :
    endActivation a s = answerActivation a .done (twoBytes a.version.toNat) (activateTables a.version s) := by
  simp [endActivation, h]

/-- R119: the cycle afresh. -/
theorem restartCycle_timer (s : State) : (restartCycle s).reports.cycleTimer = s.freshCycle := by
  unfold State.freshCycle restartCycle
  cases hr : s.tables.params with
  | none => rfl
  | some r => by_cases hs : s.tables.sections = [] <;> simp [State.reportingActive, hr, hs, State.startTimer]

/-- R116, R119: an activation queues every configured section and restarts the cycle. -/
theorem activateTables_reports (v : BitVec 16) (s : State) :
    (activateTables v s).reports.queue = s.reports.queue ++ s.newcomers s.configuredSections
      ∧ (activateTables v s).reports.hold =
        (if s.reports.queue = [] ∧ s.newcomers s.configuredSections ≠ [] then s.freshHold else s.reports.hold)
      ∧ (activateTables v s).reports.cyclePointer = 0
      ∧ (activateTables v s).reports.cycleTimer = s.freshCycle := by
  let u := setAllSections .start (resetPoints .starting (buildSideMap (s.inStartUp v)))
  have hq := queueAllSections_queues u
  rw [configuredSections_of (s := s) (by simp [u])] at hq
  obtain ⟨queue, hold, -, -⟩ := hq.congr (s' := s) (t' := queueAllSections u) (by simp [u]) (by simp [u]) (by simp [u]) rfl
  refine ⟨?_, ?_, rfl, ?_⟩
  · simpa [activateTables_eq, startSections, u] using queue
  · simpa [activateTables_eq, startSections, u] using hold
  · rw [activateTables_eq, restartCycle_timer]
    simp [State.freshCycle, startSections]

end

/-- Settles O53. -/
theorem activationEnds : Obligations.ActivationEnds := by
  intro a s hp ha
  rw [exec_activationEnd hp ha]
  refine ⟨fun code index hv => ?_, fun hv => ?_⟩
  · rw [endActivation_invalid hv]
    rfl
  · obtain ⟨hqueue, hhold, hpointer, htimer⟩ := activateTables_reports a.version s
    have hsections := activateTables_sectionsSet a.version s
    have hpoints :
        (activateTables a.version s).points = (resetPoints .starting (buildSideMap (s.inStartUp a.version))).points := by
      simp [activateTables_eq, startSections]
    rw [endActivation_done hv]
    refine ⟨_, rfl, ?_, pointsReset_of hpoints (by simp), hsections, activateTables_sideMapSound a.version hv,
      peerReset_spec (u := startSections .start (resetPoints .starting (buildSideMap (s.inStartUp a.version)))) rfl,
      hqueue, hhold, hpointer, htimer⟩
    exact state_ext ⟨by simp, by simp, by simp, by simp, rfl, rfl, rfl, rfl, by simp [answerActivation, reply],
      by simp [activateTables_eq, startSections], by simp, by simp, by simp⟩

end Sys2Proof.Machine
end
